-- ==== Sys2Proof/Word.lean ====
section
/-! DEFINITION. Word.lean: the one datum of the machine, a 16-bit word (00_scope.md R5, R6), and the register identifiers
(10_state.md R22). -/

namespace Sys2Proof

/-- A register, memory word, instruction word or address: 16 bits, bit 0 least significant (R5). Addition is modulo 2^16 (R6, R103). -/
abbrev Word := BitVec 16

/-- "one of 8 discrete values (R0..R7), a closed enumeration" (R22). -/
inductive RegId where
  | r0 | r1 | r2 | r3 | r4 | r5 | r6 | r7
deriving DecidableEq, Repr

end Sys2Proof
end

