-- ==== Sys2Proof/Machine/BitField.lean ====
section
/-! DEFINITION. Machine/BitField.lean: the bit-field extractor (40_bitfield_extractor.md R80 to R87). Each function asks for
a proof that its arguments are inside the contract, so a call outside it does not type-check and has no value (R86; log
entry 13). All are pure (R87). -/

namespace Sys2Proof

/-- `extractField(word, high, low)`: bits `high` down to `low`, right-justified (R80). -/
def extractField (word : Word) (high low : Nat) (_order : low ≤ high := by decide) (_width : high ≤ 15 := by decide) :
    BitVec (high - low + 1) :=
  word.extractLsb high low

/-- `bitAt(word, index)`: the bit at `index`, 0 or 1 (R81). -/
def bitAt (word : Word) (index : Nat) (_width : index ≤ 15 := by decide) : BitVec 1 :=
  word.extractLsb' index 1

/-- `isNegative(word)`: "true iff bit 15 is set" (R82). -/
def isNegative (word : Word) : Bool := bitAt word 15 == 1#1

/-- `bitWidth(value)`: the least number of bits that hold `value` unsigned, with `bitWidth(0) = 1` (R83). No instruction
uses it. -/
def bitWidth (value : Word) : Nat := if value = 0#16 then 1 else Nat.log2 value.toNat + 1

/-- `sext_N(v)`: the low `N` bits of `v`, bit `N-1` copied upward (R84). `N` is declared, never inferred (R85). -/
def sext (N : Nat) (v : Word) (_least : 1 ≤ N := by decide) (_most : N ≤ 16 := by decide) : Word :=
  (v.setWidth N).signExtend 16

/-- `zext_N(v)`: the low `N` bits of `v`, zeros above (00_scope.md R6). -/
def zext (N : Nat) (v : Word) (_least : 1 ≤ N := by decide) (_most : N ≤ 16 := by decide) : Word :=
  (v.setWidth N).setWidth 16

end Sys2Proof
end

