-- ==== Sys2Proof/Syntax.lean ====
section
/-! DEFINITION. Syntax.lean: one constructor per row of spec/opcode_table.json. Both forms of ADD have the table's mnemonic
ADD; the fifteen reserved rows keep the twelve bits below the opcode, which nothing decodes (30_encoding.md R69) but which
the fault record shows as part of the word (60_exceptions.md R112). -/

namespace Sys2Proof

inductive Instr where
  /-- `ADD DR, SR1, SR2`, `0001dddsss0xxttt` (R63). The ignored bits 4 and 3 are no part of the instruction (R68, R73). -/
  | addReg (dr sr1 sr2 : RegId)
  /-- `ADD DR, SR1, #imm`, `0001dddsss1iiiii` (R64). -/
  | addImm (dr sr1 : RegId) (imm5 : BitVec 5)
  /-- Opcode 0b0000: no table entry (R69). -/
  | unsupported0000 (low : BitVec 12)
  /-- Opcode 0b0010: no table entry (R69). -/
  | unsupported0010 (low : BitVec 12)
  /-- Opcode 0b0011: no table entry (R69). -/
  | unsupported0011 (low : BitVec 12)
  /-- Opcode 0b0100: no table entry (R69). -/
  | unsupported0100 (low : BitVec 12)
  /-- Opcode 0b0101: no table entry (R69). -/
  | unsupported0101 (low : BitVec 12)
  /-- Opcode 0b0110: no table entry (R69). -/
  | unsupported0110 (low : BitVec 12)
  /-- Opcode 0b0111: no table entry (R69). -/
  | unsupported0111 (low : BitVec 12)
  /-- Opcode 0b1000: no table entry (R69). -/
  | unsupported1000 (low : BitVec 12)
  /-- Opcode 0b1001: no table entry (R69). -/
  | unsupported1001 (low : BitVec 12)
  /-- Opcode 0b1010: no table entry (R69). -/
  | unsupported1010 (low : BitVec 12)
  /-- Opcode 0b1011: no table entry (R69). -/
  | unsupported1011 (low : BitVec 12)
  /-- Opcode 0b1100: no table entry (R69). -/
  | unsupported1100 (low : BitVec 12)
  /-- Opcode 0b1101: no table entry (R69). -/
  | unsupported1101 (low : BitVec 12)
  /-- Opcode 0b1110: no table entry (R69). -/
  | unsupported1110 (low : BitVec 12)
  /-- Opcode 0b1111: no table entry (R69). -/
  | unsupported1111 (low : BitVec 12)
deriving DecidableEq, Repr

end Sys2Proof
end

