-- ==== Sys2Proof/WellFormed.lean ====
section
/-! DEFINITION. WellFormed.lean: which instructions as WRITTEN (30_encoding.md R72) are instructions of the hardware. A
written instruction names registers by number and its immediate by a signed integer, so it can be out of range; the types
of `Instr` admit only values that are in range, so every `Instr` is well-formed (Laws/Encoding.lean proves it). -/

namespace Sys2Proof

/-- An instruction as a program text gives it, nothing checked (R72; log entry 22). The third form is a data word that has
an opcode value without a table entry (R69), by its opcode and the twelve bits below it. -/
inductive RawInstr where
  | addReg (dr sr1 sr2 : Nat)
  | addImm (dr sr1 : Nat) (imm : Int)
  | unsupported (opcode low : Nat)
deriving DecidableEq, Repr

/-- "integers in range [0,7] map bijectively onto it ... out-of-range values are a decode failure" (R22). -/
def registerInRange (n : Nat) : Bool := decide (n < 8)

/-- "`imm` is a decimal integer from -16 to 15" (R72). -/
def immediateInRange (imm : Int) : Bool := decide (-16 ≤ imm) && decide (imm ≤ 15)

/-- The written instruction is one of the hardware's: R72 for the two forms of ADD, R69 for a word without a table entry. -/
def RawInstr.wf : RawInstr → Bool
  | .addReg dr sr1 sr2 => registerInRange dr && registerInRange sr1 && registerInRange sr2
  | .addImm dr sr1 imm => registerInRange dr && registerInRange sr1 && immediateInRange imm
  | .unsupported opcode low => decide (opcode < 16) && decide (opcode ≠ 1) && decide (low < 4096)

/-- The number of a register: R`i` is `i` (R22). -/
def RegId.index : RegId → Nat
  | .r0 => 0 | .r1 => 1 | .r2 => 2 | .r3 => 3 | .r4 => 4 | .r5 => 5 | .r6 => 6 | .r7 => 7

/-- How an instruction is written (R72): the immediate is the signed value of its five bits. -/
def Instr.raw : Instr → RawInstr
  | .addReg dr sr1 sr2 => .addReg dr.index sr1.index sr2.index
  | .addImm dr sr1 imm5 => .addImm dr.index sr1.index imm5.toInt
  | .unsupported0000 low => .unsupported 0 low.toNat
  | .unsupported0010 low => .unsupported 2 low.toNat
  | .unsupported0011 low => .unsupported 3 low.toNat
  | .unsupported0100 low => .unsupported 4 low.toNat
  | .unsupported0101 low => .unsupported 5 low.toNat
  | .unsupported0110 low => .unsupported 6 low.toNat
  | .unsupported0111 low => .unsupported 7 low.toNat
  | .unsupported1000 low => .unsupported 8 low.toNat
  | .unsupported1001 low => .unsupported 9 low.toNat
  | .unsupported1010 low => .unsupported 10 low.toNat
  | .unsupported1011 low => .unsupported 11 low.toNat
  | .unsupported1100 low => .unsupported 12 low.toNat
  | .unsupported1101 low => .unsupported 13 low.toNat
  | .unsupported1110 low => .unsupported 14 low.toNat
  | .unsupported1111 low => .unsupported 15 low.toNat

/-- An instruction is well-formed when the way it is written is. -/
def Instr.wf (i : Instr) : Bool := i.raw.wf

end Sys2Proof
end

