-- ==== Sys2Proof/Decode.lean ====
section
/-! DEFINITION. Decode.lean: the decoder, total on 16-bit words (30_encoding.md R60 to R73), the encoder written from the same
formats, the opcode table as data, and the assembler of the written form. -/

namespace Sys2Proof

/-- The 3-bit field value `i` names R`i` (R22, R66): all eight values are legal. -/
def RegId.ofField (f : BitVec 3) : RegId :=
  match f.toNat with
  | 0 => .r0 | 1 => .r1 | 2 => .r2 | 3 => .r3 | 4 => .r4 | 5 => .r5 | 6 => .r6 | _ => .r7

/-- The 3-bit field that names a register (R22). -/
def RegId.toField (r : RegId) : BitVec 3 := BitVec.ofNat 3 r.index

/-- A word whose opcode field has no table entry is rejected by the name of its row (R69, R92). Opcode 1 never comes here. -/
def unsupportedInstr (opcode : BitVec 4) (low : BitVec 12) : Instr :=
  match opcode.toNat with
  | 0 => .unsupported0000 low
  | 2 => .unsupported0010 low
  | 3 => .unsupported0011 low
  | 4 => .unsupported0100 low
  | 5 => .unsupported0101 low
  | 6 => .unsupported0110 low
  | 7 => .unsupported0111 low
  | 8 => .unsupported1000 low
  | 9 => .unsupported1001 low
  | 10 => .unsupported1010 low
  | 11 => .unsupported1011 low
  | 12 => .unsupported1100 low
  | 13 => .unsupported1101 low
  | 14 => .unsupported1110 low
  | _ => .unsupported1111 low

/-- `Decode(w)` of R73: bits 15..12 select, bit 5 selects the form of ADD, and the fields are R63's and R64's. -/
def decode (w : Word) : Instr :=
  if extractField w 15 12 = 0b0001#4 then
    if bitAt w 5 = 0#1 then
      .addReg (RegId.ofField (extractField w 11 9)) (RegId.ofField (extractField w 8 6)) (RegId.ofField (extractField w 2 0))
    else
      .addImm (RegId.ofField (extractField w 11 9)) (RegId.ofField (extractField w 8 6)) (extractField w 4 0)
  else unsupportedInstr (extractField w 15 12) (extractField w 11 0)

/-- The host's numbering of a table row's bits as the one word of an instruction (R60). -/
def tableWord (nbits w : Nat) : Word := BitVec.ofNat 16 (w % 2 ^ nbits)

/-- The instruction the decoder reads from `nbits` table bits `w`. An instruction is one 16-bit word (R60), so a longer one
is none. -/
def decodeTableWord (nbits w : Nat) : Option Instr :=
  if nbits ≤ 16 then some (decode (tableWord nbits w)) else none

/-- The word of an ADD, register form: opcode, `DR`, `SR1`, mode 0, bits 4 and 3 as 00, `SR2` (R63, R68). -/
def encodeAddReg (dr sr1 sr2 : RegId) : Word :=
  0b0001#4 ++ dr.toField ++ sr1.toField ++ 0b0#1 ++ 0b00#2 ++ sr2.toField

/-- The word of an ADD, immediate form: opcode, `DR`, `SR1`, mode 1, `imm5` (R64). -/
def encodeAddImm (dr sr1 : RegId) (imm5 : BitVec 5) : Word :=
  0b0001#4 ++ dr.toField ++ sr1.toField ++ 0b1#1 ++ imm5

/-- A word by its opcode field and the twelve bits below it (R61). -/
def encodeOpcode (opcode : BitVec 4) (low : BitVec 12) : Word := opcode ++ low

/-- The word of an instruction (R63, R64, R69). -/
def encode : Instr → Word
  | .addReg dr sr1 sr2 => encodeAddReg dr sr1 sr2
  | .addImm dr sr1 imm5 => encodeAddImm dr sr1 imm5
  | .unsupported0000 low => encodeOpcode 0b0000#4 low
  | .unsupported0010 low => encodeOpcode 0b0010#4 low
  | .unsupported0011 low => encodeOpcode 0b0011#4 low
  | .unsupported0100 low => encodeOpcode 0b0100#4 low
  | .unsupported0101 low => encodeOpcode 0b0101#4 low
  | .unsupported0110 low => encodeOpcode 0b0110#4 low
  | .unsupported0111 low => encodeOpcode 0b0111#4 low
  | .unsupported1000 low => encodeOpcode 0b1000#4 low
  | .unsupported1001 low => encodeOpcode 0b1001#4 low
  | .unsupported1010 low => encodeOpcode 0b1010#4 low
  | .unsupported1011 low => encodeOpcode 0b1011#4 low
  | .unsupported1100 low => encodeOpcode 0b1100#4 low
  | .unsupported1101 low => encodeOpcode 0b1101#4 low
  | .unsupported1110 low => encodeOpcode 0b1110#4 low
  | .unsupported1111 low => encodeOpcode 0b1111#4 low

/-- One row of spec/opcode_table.json: a word `w` is in the row exactly when `w & mask = pattern`. -/
structure OpcodeRow where
  mnemonic : String
  pattern : Word
  mask : Word
deriving DecidableEq, Repr

/-- A reserved row: the opcode field alone decides (R69). -/
def unsupportedRow (mnemonic : String) (opcode : BitVec 4) : OpcodeRow :=
  OpcodeRow.mk mnemonic (encodeOpcode opcode 0#12) 0xF000#16

/-- The row of an instruction: R63, R64 and R69's patterns. -/
def Instr.row : Instr → OpcodeRow
  | .addReg _ _ _ => OpcodeRow.mk "ADD" 0x1000#16 0xF020#16
  | .addImm _ _ _ => OpcodeRow.mk "ADD" 0x1020#16 0xF020#16
  | .unsupported0000 _ => unsupportedRow "UNSUPPORTED.0000" 0b0000#4
  | .unsupported0010 _ => unsupportedRow "UNSUPPORTED.0010" 0b0010#4
  | .unsupported0011 _ => unsupportedRow "UNSUPPORTED.0011" 0b0011#4
  | .unsupported0100 _ => unsupportedRow "UNSUPPORTED.0100" 0b0100#4
  | .unsupported0101 _ => unsupportedRow "UNSUPPORTED.0101" 0b0101#4
  | .unsupported0110 _ => unsupportedRow "UNSUPPORTED.0110" 0b0110#4
  | .unsupported0111 _ => unsupportedRow "UNSUPPORTED.0111" 0b0111#4
  | .unsupported1000 _ => unsupportedRow "UNSUPPORTED.1000" 0b1000#4
  | .unsupported1001 _ => unsupportedRow "UNSUPPORTED.1001" 0b1001#4
  | .unsupported1010 _ => unsupportedRow "UNSUPPORTED.1010" 0b1010#4
  | .unsupported1011 _ => unsupportedRow "UNSUPPORTED.1011" 0b1011#4
  | .unsupported1100 _ => unsupportedRow "UNSUPPORTED.1100" 0b1100#4
  | .unsupported1101 _ => unsupportedRow "UNSUPPORTED.1101" 0b1101#4
  | .unsupported1110 _ => unsupportedRow "UNSUPPORTED.1110" 0b1110#4
  | .unsupported1111 _ => unsupportedRow "UNSUPPORTED.1111" 0b1111#4

/-- The opcode table, in the order of spec/opcode_table.json: one entry with two forms and fifteen values without (R62). -/
def opcodeTable : List OpcodeRow :=
  [OpcodeRow.mk "ADD" 0x1000#16 0xF020#16, OpcodeRow.mk "ADD" 0x1020#16 0xF020#16] ++
  [unsupportedRow "UNSUPPORTED.0000" 0b0000#4, unsupportedRow "UNSUPPORTED.0010" 0b0010#4,
   unsupportedRow "UNSUPPORTED.0011" 0b0011#4, unsupportedRow "UNSUPPORTED.0100" 0b0100#4,
   unsupportedRow "UNSUPPORTED.0101" 0b0101#4, unsupportedRow "UNSUPPORTED.0110" 0b0110#4,
   unsupportedRow "UNSUPPORTED.0111" 0b0111#4] ++
  [unsupportedRow "UNSUPPORTED.1000" 0b1000#4, unsupportedRow "UNSUPPORTED.1001" 0b1001#4,
   unsupportedRow "UNSUPPORTED.1010" 0b1010#4, unsupportedRow "UNSUPPORTED.1011" 0b1011#4,
   unsupportedRow "UNSUPPORTED.1100" 0b1100#4, unsupportedRow "UNSUPPORTED.1101" 0b1101#4,
   unsupportedRow "UNSUPPORTED.1110" 0b1110#4, unsupportedRow "UNSUPPORTED.1111" 0b1111#4]

/-- A word is in a row of the table. -/
def OpcodeRow.holds (r : OpcodeRow) (w : Word) : Bool := w &&& r.mask == r.pattern

/-- The register a written number names, when it is in range (R22). -/
def RegId.ofIndex (n : Nat) : RegId := RegId.ofField (BitVec.ofNat 3 n)

/-- The instruction of a written one; none when it is ill-formed, never a clamp or a wrap (R72, R113). -/
def RawInstr.assemble (r : RawInstr) : Option Instr :=
  if r.wf then
    match r with
    | .addReg dr sr1 sr2 => some (.addReg (RegId.ofIndex dr) (RegId.ofIndex sr1) (RegId.ofIndex sr2))
    | .addImm dr sr1 imm => some (.addImm (RegId.ofIndex dr) (RegId.ofIndex sr1) (BitVec.ofInt 5 imm))
    | .unsupported opcode low => some (unsupportedInstr (BitVec.ofNat 4 opcode) (BitVec.ofNat 12 low))
  else none

end Sys2Proof
end

