-- ==== Sys2Proof/Config.lean ====
section
/-! DEFINITION. Config.lean: the parameters of the hardware (00_scope.md R4). Every one but `STREAM_LEN` has one value;
`STREAM_LEN` is open, and its values are the type `StreamLen`. The spec leaves no other value free, so there is no opaque
constant here (93_implementation_defined.md: "nothing returns an unconstrained value"). -/

namespace Sys2Proof.Config

/-- `XLEN`: bits of a general register, of a memory word and of an instruction word (R4). -/
def xlen : Nat := 16
/-- `AW`: bits of an address and of the program counter (R4). -/
def aw : Nat := 16
/-- `MEM_WORDS`: number of memory words (R4, R32). -/
def memWords : Nat := 65536
/-- `NREG`: number of general registers (R4, R21). -/
def nreg : Nat := 8
/-- `REGID_W`: bits of a register field (R4, R66). -/
def regIdW : Nat := 3
/-- `OPC_W`: bits of the opcode field (R4, R61). -/
def opcW : Nat := 4
/-- `IMM_W`: bits of the immediate of immediate-form ADD (R4, R67). -/
def immW : Nat := 5
/-- `NCC`: number of condition-code values (R4, R29). -/
def ncc : Nat := 3
/-- `ILEN`: words of an instruction (R4, R60). -/
def ilen : Nat := 1
/-- `NOPC_DEFINED`: opcode values with a handler (R4, R62). -/
def nopcDefined : Nat := 1

/-- The values of the open parameter `STREAM_LEN`: 0 to 65,535 (R4; 92_eei_decisions.md D2, D3). -/
abbrev StreamLen := Fin 65536

/-- `STREAM_LEN` of a machine nothing has been loaded into: the empty stream. DESIGN CHOICE (log entry 2), unsafe. -/
def resetStreamLen : StreamLen := 0

end Sys2Proof.Config
end

