-- ==== Sys2Proof/Machine/State.lean ====
section
/-! DEFINITION. Machine/State.lean: the architectural state (10_state.md R20 to R37) as plain data, its reset value, and the
reasons a step or a host transaction can stop. -/

namespace Sys2Proof.Machine

/-- "8 independent 16-bit general-purpose slots": none hard-wired, none aliased, no dedicated roles (R21). -/
structure RegFile where
  r0 : Word
  r1 : Word
  r2 : Word
  r3 : Word
  r4 : Word
  r5 : Word
  r6 : Word
  r7 : Word
deriving DecidableEq, Repr

/-- The condition code: "always exactly one of (NEGATIVE, ZERO, POSITIVE)" (R29). -/
inductive CondCode where
  | negative | zero | positive
deriving DecidableEq, Repr

/-- The three fatal conditions (60_exceptions.md R110, R123). -/
inductive Cause where
  /-- Fetch at or past the end of the stream (R111). -/
  | streamExhaustion
  /-- The opcode field has no table entry (R112). -/
  | unsupportedOpcode
  /-- A register field that names no register: a named failure that nothing raises (R113; log entry 10). -/
  | invalidRegister
deriving DecidableEq, Repr

/-- The run status (R35): `word` is absent for STREAM_EXHAUSTION. -/
inductive RunStatus where
  | running
  | faulted (cause : Cause) (addr : Word) (word : Option Word)
deriving DecidableEq, Repr

/-- One listed memory word: its word address and its value. The word is the machine's only unit (20_memory.md R44; log entry 8). -/
abbrev Cell := Nat × Word

/-- The 65,536 memory words (R32) as the list of those that differ from what an unlisted address reads as, addresses rising. -/
abbrev Memory := List Cell

/-- What an address that is not listed reads as: memory is "initialized to zero" (R32, R37). -/
def Memory.unlisted : Word := 0#16

/-- The canonical form: addresses strictly rising and inside the address space, no cell that says what an unlisted address says. -/
abbrev Memory.wf (m : Memory) : Prop :=
  m.Pairwise (fun p q => p.1 < q.1) ∧ ∀ c ∈ m, c.1 < Config.memWords ∧ c.2 ≠ Memory.unlisted

/-- The state of R20, with the parameter `STREAM_LEN` carried beside it (log entry 1). -/
structure State where
  /-- R0 to R7 (R21). -/
  x : RegFile
  /-- "the address of the next instruction to execute" (R25). -/
  pc : Word
  /-- The condition code (R29). -/
  cc : CondCode
  /-- The memory (R32). -/
  mem : Memory
  /-- The run status (R35). -/
  run : RunStatus
  /-- The parameter `STREAM_LEN` of the run (00_scope.md R4): no state of the spec's, and no step writes it. -/
  streamLen : Config.StreamLen
deriving DecidableEq, Repr

/-- The reasons a step can stop without a next state: NONE. Every fatal condition of the spec is a next state whose `run` is
FAULTED (60_exceptions.md R115, R126; log entry 3), and no state is stuck (R126), so this type has no constructor. -/
inductive Fault where
deriving DecidableEq, Repr

/-- The reasons for no meaning. No step of the machine answers with one (R126); all are safe. -/
inductive Refusal where
  /-- An instruction without a meaning, by its mnemonic: no arm of `exec` is left so. Safe. -/
  | notModelled (mnemonic : String)
  /-- The host tried to write state after the first STEP of a run, which it must not do (70_reset_and_hazards.md R137): raised
  by `Session.transact`. Safe: such a session is outside every claim (93_implementation_defined.md U14). -/
  | hostWriteDuringRun
  /-- The host gave a stream of 65,536 words or more, outside `STREAM_LEN`'s range (92_eei_decisions.md D3): raised by
  `Session.transact`. Safe. -/
  | streamTooLong
deriving DecidableEq, Repr

/-- All eight registers zero (R37). -/
def RegFile.zero : RegFile := RegFile.mk 0#16 0#16 0#16 0#16 0#16 0#16 0#16 0#16

/-- The reset state (R37) of a machine whose parameter `STREAM_LEN` is `n`: every register, the pc and every memory word
zero, `cc` ZERO (92_eei_decisions.md D4; log entry 4), RUNNING (D6). -/
def State.resetWith (n : Config.StreamLen) : State where
  x := RegFile.zero
  pc := 0#16
  cc := .zero
  mem := []
  run := .running
  streamLen := n

/-- The machine right after RESET (R37, R130), nothing loaded: the stream is empty (log entry 2). -/
def State.reset : State := State.resetWith Config.resetStreamLen

end Sys2Proof.Machine
end

