-- ==== Sys2Proof/Machine/Operands.lean ====
section
/-! DEFINITION. Machine/Operands.lean: the operand forms of the ISA: a general register named by a field (30_encoding.md R66)
and the 5-bit immediate (R67). There is no other operand form (41_instruction_cycle.md R97). -/

namespace Sys2Proof.Machine

/-- `x[i]` (10_state.md R23). -/
def RegFile.get (f : RegFile) : RegId → Word
  | .r0 => f.r0 | .r1 => f.r1 | .r2 => f.r2 | .r3 => f.r3 | .r4 => f.r4 | .r5 => f.r5 | .r6 => f.r6 | .r7 => f.r7

/-- `x[i] <- v` (R23). -/
def RegFile.set (f : RegFile) (i : RegId) (v : Word) : RegFile :=
  match i with
  | .r0 => { f with r0 := v }
  | .r1 => { f with r1 := v }
  | .r2 => { f with r2 := v }
  | .r3 => { f with r3 := v }
  | .r4 => { f with r4 := v }
  | .r5 => { f with r5 := v }
  | .r6 => { f with r6 := v }
  | .r7 => { f with r7 := v }

/-- The value of a register operand: the register itself, as it stands before the instruction writes (R104). -/
def State.reg (s : State) (i : RegId) : Word := s.x.get i

/-- The immediate operand: `sext_5(imm5)` (R67), the width declared (R84). -/
def immediate (imm5 : BitVec 5) : Word := sext 5 (imm5.setWidth 16)

/-- Register decode from an integer (R22): 0 to 7 name R0 to R7, any other is INVALID_REGISTER, never a clamp or a wrap
(60_exceptions.md R113). A 3-bit field is always in range, so no instruction raises it (log entry 10). -/
def regOfIndex (n : Nat) : Except Cause RegId :=
  if n < 8 then .ok (RegId.ofIndex n) else .error .invalidRegister

end Sys2Proof.Machine
end

