-- ==== Sys2Proof/Machine/Ops.lean ====
section
/-! DEFINITION. Machine/Ops.lean: the named operations over memory, registers and the other state; taking a fatal condition;
and the FETCH and COMMIT stages of the instruction cycle. -/

namespace Sys2Proof.Machine

/-- The value at word address `k`: the listed one, or what an unlisted address reads as. -/
def Memory.lookup (k : Nat) : Memory → Word
  | [] => Memory.unlisted
  | (a, v) :: rest => if a = k then v else Memory.lookup k rest

/-- `MemRead(a, 1)`: total over the address range, changes nothing (20_memory.md R41). -/
def Memory.read (m : Memory) (a : Word) : Word := Memory.lookup a.toNat m

/-- Put `v` at word address `k`, keeping the canonical form. -/
def Memory.store (k : Nat) (v : Word) : Memory → Memory
  | [] => if v = Memory.unlisted then [] else [(k, v)]
  | (a, u) :: rest =>
    if a < k then (a, u) :: Memory.store k v rest
    else if a = k then (if v = Memory.unlisted then rest else (k, v) :: rest)
    else (if v = Memory.unlisted then (a, u) :: rest else (k, v) :: (a, u) :: rest)

/-- `MemWrite(a, 1, v)`: total, unconditional (20_memory.md R42). -/
def Memory.write (m : Memory) (a v : Word) : Memory := Memory.store a.toNat v m

/-- `MemRead(a, 1)` of the machine (R41). -/
def State.memRead (s : State) (a : Word) : Word := s.mem.read a

/-- `MemWrite(a, 1, v)` of the machine (R42). -/
def State.memWrite (s : State) (a v : Word) : State := { s with mem := s.mem.write a v }

/-- `x[i] <- v` (10_state.md R23). -/
def State.setReg (s : State) (i : RegId) (v : Word) : State := { s with x := s.x.set i v }

/-- `pc <- t` (R25). -/
def State.setPc (s : State) (t : Word) : State := { s with pc := t }

/-- `cc <- c`, the atomic exclusive set (R29). -/
def State.setCc (s : State) (c : CondCode) : State := { s with cc := c }

/-- The run status written (R35). -/
def State.setRun (s : State) (r : RunStatus) : State := { s with run := r }

/-- The parameter `STREAM_LEN` of the run, set by the host with the program (70_reset_and_hazards.md R131). -/
def State.setStreamLen (s : State) (n : Config.StreamLen) : State := { s with streamLen := n }

/-- Fault entry: `run <- FAULTED(cause, addr, word)` "and nothing else changes" (60_exceptions.md R115). There is no vector,
no handler, no saved state and no return; only RESET leaves the faulted state (R116). -/
def State.raise (s : State) (cause : Cause) (addr : Word) (word : Option Word) : State :=
  s.setRun (.faulted cause addr word)

/-- STREAM_EXHAUSTION: records the pc and no word (R111). -/
def raiseStreamExhaustion (s : State) : State := s.raise .streamExhaustion s.pc none

/-- UNSUPPORTED_OPCODE: records the address the word was fetched from and the word (R112). A meaning runs with the pc still
at that address (log entry 7). -/
def raiseUnsupportedOpcode (word : Word) (s : State) : State := s.raise .unsupportedOpcode s.pc (some word)

/-- The number of a cause, for an implementation that must show one (R123; 92_eei_decisions.md D8; log entry 14). -/
def Cause.code : Cause → Nat
  | .streamExhaustion => 1
  | .unsupportedOpcode => 2
  | .invalidRegister => 3

/-- The number of a run status: 0 for no fault (R123, D8). -/
def RunStatus.code : RunStatus → Nat
  | .running => 0
  | .faulted cause _ _ => cause.code

/-- FETCH (41_instruction_cycle.md R91): at or past `STREAM_LEN` there is no word and memory is not read; before it, the word
at the pc and the next pc. -/
def fetch (s : State) : Option (Word × Word) :=
  if s.pc.toNat < s.streamLen.val then some (s.memRead s.pc, s.pc + 1#16) else none

/-- COMMIT (R94): a step that completes writes `pc <- npc`; one that ended in a fatal condition does not (log entry 6). -/
def commit (npc : Word) : Host.Outcome State Fault Refusal → Host.Outcome State Fault Refusal
  | .next t => .next (if t.run = .running then t.setPc npc else t)
  | .fault f => .fault f
  | .refused r => .refused r

end Sys2Proof.Machine
end

