-- ==== Sys2Proof/Machine/Flags.lean ====
section
/-! DEFINITION. Machine/Flags.lean: the condition-code update (42_arithmetic_add.md R102) and the shown form of the condition
code (10_state.md R31). There is no carry, overflow or other flag (R103). -/

namespace Sys2Proof.Machine

/-- `setConditionNegative` (10_state.md R29). -/
def State.setConditionNegative (s : State) : State := s.setCc .negative

/-- `setConditionZero` (R29). -/
def State.setConditionZero (s : State) : State := s.setCc .zero

/-- `setConditionPositive` (R29). -/
def State.setConditionPositive (s : State) : State := s.setCc .positive

/-- `SetCC(r)`: zero gives ZERO; bit 15 set gives NEGATIVE; otherwise POSITIVE (R102). -/
def State.applySetCC (s : State) (r : Word) : State :=
  if r = 0#16 then s.setConditionZero
  else if isNegative r then s.setConditionNegative
  else s.setConditionPositive

/-- The one-hot 3-bit register: bit 2 NEGATIVE, bit 1 ZERO, bit 0 POSITIVE (R31; 92_eei_decisions.md D5; log entry 14). -/
def CondCode.oneHot : CondCode → BitVec 3
  | .negative => 0b100#3
  | .zero => 0b010#3
  | .positive => 0b001#3

end Sys2Proof.Machine
end

