-- ==== Sys2Proof/Machine/Arithmetic.lean ====
section
/-! DEFINITION. Machine/Arithmetic.lean: the arithmetic-add handler in its two forms (42_arithmetic_add.md R100 to R106). The
advance of the pc is the fetch stage's and is committed with these writes (R94, R105). -/

namespace Sys2Proof.Machine

/-- Write a result to its destination register, then `SetCC` of it (R102). -/
def State.writeResult (s : State) (dr : RegId) (r : Word) : State := (s.setReg dr r).applySetCC r

/-- `ADD DR, SR1, SR2` (R100): both sources are read first (R104), the sum wraps (R103), nothing can fail (R106). -/
def execAddReg (dr sr1 sr2 : RegId) (s : State) : Host.Outcome State Fault Refusal :=
  .next (s.writeResult dr (s.reg sr1 + s.reg sr2))

/-- `ADD DR, SR1, #imm` (R101). -/
def execAddImm (dr sr1 : RegId) (imm5 : BitVec 5) (s : State) : Host.Outcome State Fault Refusal :=
  .next (s.writeResult dr (s.reg sr1 + immediate imm5))

end Sys2Proof.Machine
end

