-- ==== Sys2Proof/Machine/Unsupported.lean ====
section
/-! DEFINITION. Machine/Unsupported.lean: the fifteen opcode values without a table entry. Each raises UNSUPPORTED_OPCODE with
the address and the word, and changes nothing else (30_encoding.md R69; 41_instruction_cycle.md R92; 60_exceptions.md R112,
R115). No word of theirs is a no-op or another machine's instruction. -/

namespace Sys2Proof.Machine

/-- Opcode 0b0000 (R69, R112). -/
def execUnsupported0000 (low : BitVec 12) (s : State) : Host.Outcome State Fault Refusal :=
  .next (raiseUnsupportedOpcode (encodeOpcode 0b0000#4 low) s)

/-- Opcode 0b0010 (R69, R112). -/
def execUnsupported0010 (low : BitVec 12) (s : State) : Host.Outcome State Fault Refusal :=
  .next (raiseUnsupportedOpcode (encodeOpcode 0b0010#4 low) s)

/-- Opcode 0b0011 (R69, R112). -/
def execUnsupported0011 (low : BitVec 12) (s : State) : Host.Outcome State Fault Refusal :=
  .next (raiseUnsupportedOpcode (encodeOpcode 0b0011#4 low) s)

/-- Opcode 0b0100 (R69, R112). -/
def execUnsupported0100 (low : BitVec 12) (s : State) : Host.Outcome State Fault Refusal :=
  .next (raiseUnsupportedOpcode (encodeOpcode 0b0100#4 low) s)

/-- Opcode 0b0101 (R69, R112). -/
def execUnsupported0101 (low : BitVec 12) (s : State) : Host.Outcome State Fault Refusal :=
  .next (raiseUnsupportedOpcode (encodeOpcode 0b0101#4 low) s)

/-- Opcode 0b0110 (R69, R112). -/
def execUnsupported0110 (low : BitVec 12) (s : State) : Host.Outcome State Fault Refusal :=
  .next (raiseUnsupportedOpcode (encodeOpcode 0b0110#4 low) s)

/-- Opcode 0b0111 (R69, R112). -/
def execUnsupported0111 (low : BitVec 12) (s : State) : Host.Outcome State Fault Refusal :=
  .next (raiseUnsupportedOpcode (encodeOpcode 0b0111#4 low) s)

/-- Opcode 0b1000 (R69, R112). -/
def execUnsupported1000 (low : BitVec 12) (s : State) : Host.Outcome State Fault Refusal :=
  .next (raiseUnsupportedOpcode (encodeOpcode 0b1000#4 low) s)

/-- Opcode 0b1001 (R69, R112). -/
def execUnsupported1001 (low : BitVec 12) (s : State) : Host.Outcome State Fault Refusal :=
  .next (raiseUnsupportedOpcode (encodeOpcode 0b1001#4 low) s)

/-- Opcode 0b1010 (R69, R112). -/
def execUnsupported1010 (low : BitVec 12) (s : State) : Host.Outcome State Fault Refusal :=
  .next (raiseUnsupportedOpcode (encodeOpcode 0b1010#4 low) s)

/-- Opcode 0b1011 (R69, R112). -/
def execUnsupported1011 (low : BitVec 12) (s : State) : Host.Outcome State Fault Refusal :=
  .next (raiseUnsupportedOpcode (encodeOpcode 0b1011#4 low) s)

/-- Opcode 0b1100 (R69, R112). -/
def execUnsupported1100 (low : BitVec 12) (s : State) : Host.Outcome State Fault Refusal :=
  .next (raiseUnsupportedOpcode (encodeOpcode 0b1100#4 low) s)

/-- Opcode 0b1101 (R69, R112). -/
def execUnsupported1101 (low : BitVec 12) (s : State) : Host.Outcome State Fault Refusal :=
  .next (raiseUnsupportedOpcode (encodeOpcode 0b1101#4 low) s)

/-- Opcode 0b1110 (R69, R112). -/
def execUnsupported1110 (low : BitVec 12) (s : State) : Host.Outcome State Fault Refusal :=
  .next (raiseUnsupportedOpcode (encodeOpcode 0b1110#4 low) s)

/-- Opcode 0b1111 (R69, R112). -/
def execUnsupported1111 (low : BitVec 12) (s : State) : Host.Outcome State Fault Refusal :=
  .next (raiseUnsupportedOpcode (encodeOpcode 0b1111#4 low) s)

end Sys2Proof.Machine
end

