-- ==== Sys2Proof/Machine/Dispatch.lean ====
section
/-! DEFINITION. Machine/Dispatch.lean: the opcode dispatch multiplexer (41_instruction_cycle.md R92, R93): one arm per row of
spec/opcode_table.json. -/

namespace Sys2Proof.Machine

def exec (i : Instr) (s : State) : Host.Outcome State Fault Refusal :=
  match i with
  | .addReg dr sr1 sr2 => Sys2Proof.Machine.execAddReg dr sr1 sr2 s
  | .addImm dr sr1 imm5 => Sys2Proof.Machine.execAddImm dr sr1 imm5 s
  | .unsupported0000 low => Sys2Proof.Machine.execUnsupported0000 low s
  | .unsupported0010 low => Sys2Proof.Machine.execUnsupported0010 low s
  | .unsupported0011 low => Sys2Proof.Machine.execUnsupported0011 low s
  | .unsupported0100 low => Sys2Proof.Machine.execUnsupported0100 low s
  | .unsupported0101 low => Sys2Proof.Machine.execUnsupported0101 low s
  | .unsupported0110 low => Sys2Proof.Machine.execUnsupported0110 low s
  | .unsupported0111 low => Sys2Proof.Machine.execUnsupported0111 low s
  | .unsupported1000 low => Sys2Proof.Machine.execUnsupported1000 low s
  | .unsupported1001 low => Sys2Proof.Machine.execUnsupported1001 low s
  | .unsupported1010 low => Sys2Proof.Machine.execUnsupported1010 low s
  | .unsupported1011 low => Sys2Proof.Machine.execUnsupported1011 low s
  | .unsupported1100 low => Sys2Proof.Machine.execUnsupported1100 low s
  | .unsupported1101 low => Sys2Proof.Machine.execUnsupported1101 low s
  | .unsupported1110 low => Sys2Proof.Machine.execUnsupported1110 low s
  | .unsupported1111 low => Sys2Proof.Machine.execUnsupported1111 low s

end Sys2Proof.Machine
end

