-- ==== Sys2Proof/Machine/Cycle.lean ====
section
/-! DEFINITION. Machine/Cycle.lean: the instruction cycle FETCH, DECODE, EXECUTE, COMMIT (41_instruction_cycle.md R90 to R95,
R99). The stages leave nothing behind but the state (10_state.md R36). -/

namespace Sys2Proof.Machine

/-- One cycle of a running machine: the fetch-stage condition wins over the decode-stage one (60_exceptions.md R117). -/
def cycle (s : State) : Host.Outcome State Fault Refusal :=
  match fetch s with
  | none => .next (raiseStreamExhaustion s)
  | some (w, npc) => commit npc (exec (decode w) s)

/-- The STEP by run status: in FAULTED it does nothing and keeps the first fault (R95; log entry 18). -/
def stepByStatus (s : State) : Host.Outcome State Fault Refusal :=
  match s.run with
  | .running => cycle s
  | .faulted _ _ _ => .next s

/-- The least `STREAM_LEN`, not below the present one, with which the fetch at the pc reads a word; the greatest there is
when the pc is 0xFFFF, which no fetch reads (10_state.md R27; log entry 17). -/
def streamLenThroughPc (s : State) : Config.StreamLen :=
  if s.pc.toNat < s.streamLen.val then s.streamLen else Fin.mk (min (s.pc.toNat + 1) 65535) (by omega)

end Sys2Proof.Machine
end

