-- ==== Sys2Proof/Machine/Step.lean ====
section
/-! DEFINITION. Machine/Step.lean: one STEP (41_instruction_cycle.md R99), and the placing of one word where the next STEP
fetches. -/

namespace Sys2Proof.Machine

/-- STEP (R99). -/
def step (s : State) : Host.Outcome State Fault Refusal := stepByStatus s

/-- `s` with the word stored at the pc, the stream reaching past it and the machine RUNNING, so that the next step fetches and
runs it: what RESET, PRELOAD and the run's `STREAM_LEN` set (70_reset_and_hazards.md R131; log entry 16). -/
def State.withFetchWord (s : State) (nbits w : Nat) : State :=
  ((s.memWrite s.pc (tableWord nbits w)).setStreamLen (streamLenThroughPc s)).setRun .running

end Sys2Proof.Machine
end

