-- ==== Sys2Proof/Machine/HostPort.lean ====
section
/-! DEFINITION. Machine/HostPort.lean: the host's four transactions RESET, PRELOAD, STEP and INSPECT (00_scope.md R8;
70_reset_and_hazards.md R130 to R137; 60_exceptions.md R122) and the order the spec allows them in. The phase of a run is the
session's, not the machine's (log entry 15). -/

namespace Sys2Proof.Machine

/-- One write of PRELOAD (R131): a memory word, a general register, or the parameter `STREAM_LEN`. The host has no write of
`pc`, `cc` or `run` (10_state.md R28, R30). -/
inductive Preload where
  | word (a v : Word)
  | reg (i : RegId) (v : Word)
  | streamLen (n : Config.StreamLen)
deriving DecidableEq, Repr

/-- The effect of one PRELOAD write (R131). -/
def State.preload (s : State) : Preload → State
  | .word a v => s.memWrite a v
  | .reg i v => s.setReg i v
  | .streamLen n => s.setStreamLen n

/-- PRELOAD writes in order: "any number of `MemWrite(a, 1, v)`" and register writes (R131). -/
def State.preloadAll (s : State) : List Preload → State
  | [] => s
  | p :: ps => (s.preload p).preloadAll ps

/-- The words of a stream from address `k` up: "word `k` of the sequence at address `k`" (R131). -/
def streamWords (k : Nat) : List Word → List Preload
  | [] => []
  | w :: ws => .word (BitVec.ofNat 16 k) w :: streamWords (k + 1) ws

/-- Load an instruction stream at addresses 0 up and set `STREAM_LEN` to its length (R131); none for 65,536 words or more
(92_eei_decisions.md D3). -/
def State.loadStream (s : State) (ws : List Word) : Option State :=
  if h : ws.length < 65536 then some (s.preloadAll (streamWords 0 ws ++ [.streamLen (Fin.mk ws.length h)])) else none

/-- The launch state of a run (R132): the reset state with some words and registers replaced by the host. -/
def State.launch (ps : List Preload) : State := State.reset.preloadAll ps

/-- What INSPECT asks for (60_exceptions.md R122; 92_eei_decisions.md D17). -/
inductive Query where
  | reg (i : RegId) | word (a : Word) | pc | cc | run
deriving DecidableEq, Repr

/-- What INSPECT answers. -/
inductive Answer where
  | word (v : Word) | cc (c : CondCode) | run (r : RunStatus)
deriving DecidableEq, Repr

/-- INSPECT (R122). -/
def State.inspect (s : State) : Query → Answer
  | .reg i => .word (s.reg i)
  | .word a => .word (s.memRead a)
  | .pc => .word s.pc
  | .cc => .cc s.cc
  | .run => .run s.run

/-- Where a run stands (R132): before its first STEP, or from the first STEP on. -/
inductive Phase where
  | loading | stepping
deriving DecidableEq, Repr

/-- The machine, the phase of its run, and what the last INSPECT answered. -/
structure Session where
  state : State
  phase : Phase
  answer : Option Answer
deriving DecidableEq, Repr

/-- The host's transactions (00_scope.md R8). `loadStream` is the PRELOAD of a whole program. -/
inductive Transaction where
  | reset
  | preload (p : Preload)
  | loadStream (ws : List Word)
  | step
  | inspect (q : Query)
deriving DecidableEq, Repr

/-- A session right after RESET. -/
def Session.fresh : Session := Session.mk State.reset .loading none

/-- What a STEP leaves of a session: the machine's next state, and the phase is `stepping` from then on (R132). -/
def Session.afterStep : Host.Outcome State Fault Refusal → Host.Outcome Session Fault Refusal
  | .next t => .next (Session.mk t .stepping none)
  | .fault f => .fault f
  | .refused r => .refused r

/-- PRELOAD before the first STEP; refused from then on (R131, R137). -/
def Session.whileLoading (se : Session) (t : Host.Outcome Session Fault Refusal) : Host.Outcome Session Fault Refusal :=
  match se.phase with
  | .loading => t
  | .stepping => .refused .hostWriteDuringRun

/-- One transaction of the host. RESET is allowed at any time and leaves any state (R130). -/
def Session.transact (se : Session) : Transaction → Host.Outcome Session Fault Refusal
  | .reset => .next Session.fresh
  | .preload p => se.whileLoading (.next (Session.mk (se.state.preload p) .loading none))
  | .loadStream ws =>
    se.whileLoading (match se.state.loadStream ws with
      | some t => .next (Session.mk t .loading none)
      | none => .refused .streamTooLong)
  | .step => Session.afterStep (step se.state)
  | .inspect q => .next { se with answer := some (se.state.inspect q) }

end Sys2Proof.Machine
end

