-- ==== Sys2Proof/Safety.lean ====
section
/-! DEFINITION. Safety.lean: what counts as a completed step and as a sound state, in the words statements use. -/

namespace Sys2Proof.Machine

/-- `n` steps of the machine (the host's own run). -/
def runSteps (n : Nat) (s : State) : Host.Outcome State Fault Refusal := Host.Core.run Sys2Proof.core n s

/-- A STEP that completes: its next state is still RUNNING. A next state that is FAULTED is a failed step, never a success
(60_exceptions.md R115, R126; log entry 3). -/
def Completes (s t : State) : Prop := step s = .next t ∧ t.run = .running

/-- A STEP from `s` will fetch a word: RUNNING, and the pc inside the stream (41_instruction_cycle.md R91). -/
def State.canFetch (s : State) : Prop := s.run = .running ∧ s.pc.toNat < s.streamLen.val

/-- The fault record tells the truth about the state it stands in (60_exceptions.md R110's table, R115): the address is the
pc; STREAM_EXHAUSTION stands at or past the end with no word; UNSUPPORTED_OPCODE stands inside the stream with the word
memory holds there, whose opcode is not 0b0001; INVALID_REGISTER never stands (R113). -/
def State.faultRecordSound (s : State) : Prop :=
  match s.run with
  | .running => True
  | .faulted .streamExhaustion addr word => addr = s.pc ∧ word = none ∧ s.streamLen.val ≤ s.pc.toNat
  | .faulted .unsupportedOpcode addr word =>
    addr = s.pc ∧ word = some (s.memRead s.pc) ∧ s.pc.toNat < s.streamLen.val ∧ (s.memRead s.pc).toNat / 4096 ≠ 1
  | .faulted .invalidRegister _ _ => False

/-- What every step keeps: the memory list is canonical, the pc is never past the end of the stream (10_state.md R27,
60_exceptions.md R111), and the fault record is sound. -/
def State.Inv (s : State) : Prop := s.mem.wf ∧ s.pc.toNat ≤ s.streamLen.val ∧ s.faultRecordSound

end Sys2Proof.Machine
end

