-- ==== Sys2Proof/Certificates/Slice0/Obligations.lean ====
section
/-! DEFINITION. Certificates/Slice0/Obligations.lean: the statements, each the numbered rules of spec/ (or the sections) that
its docstring names, in arithmetic on naturals where the model computes on bit vectors. A clause that rests on a decision the
spec marks as its own (D<n> of 92_eei_decisions.md) or on a log entry says so. -/

open Sys2Proof Sys2Proof.Machine

namespace Sys2Proof.Reference

/-- R102's three cases, of the result as a number. -/
def Classifies (c : CondCode) (r : Word) : Prop :=
  (c = .zero ↔ r.toNat = 0) ∧ (c = .negative ↔ 32768 ≤ r.toNat) ∧ (c = .positive ↔ 1 ≤ r.toNat ∧ r.toNat ≤ 32767)

/-- `sext_5` of the field value `f`, 0 to 31, as a number: R84's definition at N = 5. -/
def sext5 (f : Nat) : Nat := if f < 16 then f else f + 65536 - 32

/-- What an ADD with destination `d` and integer sum `sum` makes of `s` when executed, and all it leaves alone (R100, R101,
R105): the register, the condition code, and nothing else. -/
def WritesSum (s t : State) (d : RegId) (sum : Nat) : Prop :=
  (t.reg d).toNat = sum % 65536 ∧ Classifies t.cc (t.reg d) ∧ (∀ j, j ≠ d → t.reg j = s.reg j) ∧
    (∀ a, t.memRead a = s.memRead a) ∧ t.mem = s.mem ∧ t.run = s.run ∧ t.streamLen = s.streamLen

/-- A fatal condition's record is the whole change (R115): every register, the pc, the condition code and every memory word
stay. -/
def RaisesOnly (s t : State) (c : Cause) (addr : Word) (word : Option Word) : Prop :=
  t.run = .faulted c addr word ∧ (∀ j, t.reg j = s.reg j) ∧ t.pc = s.pc ∧ t.cc = s.cc ∧
    (∀ a, t.memRead a = s.memRead a) ∧ t.mem = s.mem ∧ t.streamLen = s.streamLen

/-- Executing a row without a table entry raises UNSUPPORTED_OPCODE with the address and the row's own word. -/
def RowRaises (op : Nat) (row : BitVec 12 → Instr) : Prop :=
  ∀ (low : BitVec 12) (s : State), ∃ t, exec (row low) s = .next t ∧
    RaisesOnly s t .unsupportedOpcode s.pc (some (BitVec.ofNat 16 (op * 4096 + low.toNat)))

/-- A word is ADD, register form, by mask and match (R63). -/
def isAddReg (w : Word) : Prop := w &&& 0xF020#16 = 0x1000#16

/-- A word is ADD, immediate form, by mask and match (R64). -/
def isAddImm (w : Word) : Prop := w &&& 0xF020#16 = 0x1020#16

/-- The register a field value names, written out (R22). -/
def regNo : Nat → RegId
  | 0 => .r0 | 1 => .r1 | 2 => .r2 | 3 => .r3 | 4 => .r4 | 5 => .r5 | 6 => .r6 | _ => .r7

/-- `SetCC` on a number (R102). -/
def setCC (r : Nat) : CondCode := if r = 0 then .zero else if r / 32768 = 1 then .negative else .positive

/-- "return s with pc := npc, x[DR] := r, cc := SetCC(r)" (R99). -/
def complete (s : State) (d r : Nat) : State :=
  { s with pc := BitVec.ofNat 16 (s.pc.toNat + 1), x := s.x.set (regNo d) (BitVec.ofNat 16 r), cc := setCC r }

/-- The whole STEP of R99, transcribed on numbers. -/
def stepOfSpec (s : State) : State :=
  match s.run with
  | .faulted _ _ _ => s
  | .running =>
    if s.streamLen.val ≤ s.pc.toNat then { s with run := .faulted .streamExhaustion s.pc none }
    else
      let w := (s.memRead s.pc).toNat
      if w / 4096 = 1 then
        if w / 32 % 2 = 0 then
          complete s (w / 512 % 8) (((s.reg (regNo (w / 64 % 8))).toNat + (s.reg (regNo (w % 8))).toNat) % 65536)
        else complete s (w / 512 % 8) (((s.reg (regNo (w / 64 % 8))).toNat + sext5 (w % 32)) % 65536)
      else { s with run := .faulted .unsupportedOpcode s.pc (some (s.memRead s.pc)) }

end Sys2Proof.Reference

open Sys2Proof.Reference

/-! ### The bit-field extractor -/

/-- 40_bitfield_extractor.md section 1: the shift-and-mask definition and the whole word are R80's; the re-extraction identity is
the spec's own inference ("derived: from the definition in this rule"; log entry 20), so the statement is derived. The range of
the positions is the document's contract (section 3). -/
def Obligations.ExtractFieldIsShiftAndMask : Prop :=
  ∀ (w : Word) (h l : Nat) (hl : l ≤ h) (hh : h ≤ 15),
    (extractField w h l hl hh).toNat = (w.toNat >>> l) &&& ((1 <<< (h - l + 1)) - 1) ∧
    (extractField ((extractField w h l hl hh).setWidth 16) (h - l) 0 (by omega) (by omega)).toNat =
      (extractField w h l hl hh).toNat ∧
    (extractField w 15 0).toNat = w.toNat

/-- 40_bitfield_extractor.md section 1: one bit, the shift-and-mask form and the one-bit field. The formula is the spec's own
inference from the field definition ("derived: from rule R80"), and the index range 0 to 15, which the document does not give
for this function, is its decision D19 (log entry 13); so the statement is derived. -/
def Obligations.BitAtIsOneBitField : Prop :=
  ∀ (w : Word) (i : Nat) (hi : i ≤ 15),
    (bitAt w i hi).toNat = (w.toNat >>> i) &&& 1 ∧ (bitAt w i hi).toNat = (extractField w i i (by omega) hi).toNat

/-- R82: bit 15, that is 0x8000 and above. -/
def Obligations.IsNegativeTestsBitFifteen : Prop :=
  ∀ w : Word, (isNegative w = true ↔ (bitAt w 15).toNat = 1) ∧ (isNegative w = true ↔ 0x8000 ≤ w.toNat)

/-- R83: `bitWidth(0) = 1`, and otherwise the `k` with 2^(k-1) <= value < 2^k, which is 1 to 16. -/
def Obligations.BitWidthIsLeastWidth : Prop :=
  bitWidth 0#16 = 1 ∧
  ∀ v : Word, 1 ≤ v.toNat → 1 ≤ bitWidth v ∧ bitWidth v ≤ 16 ∧ 2 ^ (bitWidth v - 1) ≤ v.toNat ∧ v.toNat < 2 ^ bitWidth v

/-- 40_bitfield_extractor.md section 2: sign extension over the declared width, for every width 1 to 16; that bits above the
field are not read is the spec's decision D19 (log entry 13). The identity at width 16 is the document's property T5. -/
def Obligations.SextExtendsDeclaredWidth : Prop :=
  (∀ (N : Nat) (v : Word) (h1 : 1 ≤ N) (h2 : N ≤ 16),
    (v.toNat % 2 ^ N < 2 ^ (N - 1) → (sext N v h1 h2).toNat = v.toNat % 2 ^ N) ∧
    (2 ^ (N - 1) ≤ v.toNat % 2 ^ N → (sext N v h1 h2).toNat = v.toNat % 2 ^ N + 65536 - 2 ^ N)) ∧
  (∀ v : Word, sext 16 v = v)

/-! ### Registers and memory -/

/-- R22: the eight field values name the eight registers, one to one, and an integer outside 0 to 7 is a decode failure. -/
def Obligations.RegisterIdentifiersAreFieldValues : Prop :=
  (RegId.ofField 0b000#3 = .r0 ∧ RegId.ofField 0b001#3 = .r1 ∧ RegId.ofField 0b010#3 = .r2 ∧ RegId.ofField 0b011#3 = .r3 ∧
    RegId.ofField 0b100#3 = .r4 ∧ RegId.ofField 0b101#3 = .r5 ∧ RegId.ofField 0b110#3 = .r6 ∧ RegId.ofField 0b111#3 = .r7) ∧
  (∀ r : RegId, ∃ f : BitVec 3, RegId.ofField f = r ∧ ∀ g : BitVec 3, RegId.ofField g = r → g = f) ∧
  (∀ n : Nat, n < 8 → ∃ r, regOfIndex n = .ok r ∧ r.index = n) ∧
  (∀ n : Nat, 8 ≤ n → ∃ c, regOfIndex n = .error c)

/-- R23: a register reads as what was last written to it, or its reset value; a write replaces the whole register and nothing
else, and cannot fail. -/
def Obligations.RegisterReadsLastWrite : Prop :=
  (∀ (s : State) (i : RegId) (v : Word), (s.setReg i v).reg i = v ∧ (∀ j, j ≠ i → (s.setReg i v).reg j = s.reg j) ∧
    (s.setReg i v).pc = s.pc ∧ (s.setReg i v).cc = s.cc ∧ (∀ a, (s.setReg i v).memRead a = s.memRead a) ∧
    (s.setReg i v).run = s.run) ∧
  (∀ (n : Config.StreamLen) (i : RegId), (State.resetWith n).reg i = 0#16)

/-- 20_memory.md section 1: a memory write makes its word the written value and changes no other word and no other state (R42's
words). The premise is the canonical form that Obligations.StepKeepsInvariant and Obligations.LaunchStatesAreSound keep; that
form, and the last clause, which says that the write keeps it, are the model's choice of representation (log entry 8, DESIGN
CHOICE) and no rule of the spec, so the statement is derived. -/
def Obligations.MemoryWriteChangesOneWord : Prop :=
  ∀ (s : State) (a v : Word), s.mem.wf →
    (s.memWrite a v).memRead a = v ∧ (∀ b, b ≠ a → (s.memWrite a v).memRead b = s.memRead b) ∧
    (∀ i, (s.memWrite a v).reg i = s.reg i) ∧ (s.memWrite a v).pc = s.pc ∧ (s.memWrite a v).cc = s.cc ∧
    (s.memWrite a v).run = s.run ∧ (s.memWrite a v).mem.wf

/-- The canonical form is canonical (the model's representation, log entry 8): memories in it that read alike at all 65,536
addresses are the same data. -/
def Obligations.EqualReadsMeanEqualMemories : Prop :=
  ∀ m n : Memory, m.wf → n.wf → (∀ a : Word, m.read a = n.read a) → m = n

/-! ### Encoding -/

/-- R63: a word is ADD register form exactly when it matches 0x1000 under 0xF020, with DR, SR1, SR2 from bits 11..9, 8..6,
2..0; the document's word 0x1042. -/
def Obligations.RegisterFormDecodesByMask : Prop :=
  (∀ w : Word, isAddReg w ↔ ∃ d a b, decode w = .addReg d a b) ∧
  (∀ (w : Word) (d a b : RegId), decode w = .addReg d a b →
    d.index = w.toNat / 512 % 8 ∧ a.index = w.toNat / 64 % 8 ∧ b.index = w.toNat % 8) ∧
  decode 0x1042#16 = .addReg .r0 .r1 .r2

/-- R64: a word is ADD immediate form exactly when it matches 0x1020 under 0xF020, with DR, SR1, imm5 from bits 11..9, 8..6,
4..0. -/
def Obligations.ImmediateFormDecodesByMask : Prop :=
  (∀ w : Word, isAddImm w ↔ ∃ d a f, decode w = .addImm d a f) ∧
  (∀ (w : Word) (d a : RegId) (f : BitVec 5), decode w = .addImm d a f →
    d.index = w.toNat / 512 % 8 ∧ a.index = w.toNat / 64 % 8 ∧ f.toNat = w.toNat % 32)

/-- R67: the immediate of an immediate-form word is its low five bits, unscaled, sign-extended: 0 to 15 give 0x0000 to 0x000F
and 16 to 31 give 0xFFF0 to 0xFFFF. -/
def Obligations.ImmediateOperandIsSextFive : Prop :=
  ∀ (w : Word) (d a : RegId) (f : BitVec 5), decode w = .addImm d a f →
    (w.toNat % 32 ≤ 15 → (immediate f).toNat = w.toNat % 32) ∧
    (16 ≤ w.toNat % 32 → (immediate f).toNat = 0xFFF0 + (w.toNat % 32 - 16)) ∧
    (immediate f).toInt = f.toInt ∧ -16 ≤ (immediate f).toInt ∧ (immediate f).toInt ≤ 15

/-- R68: words that differ only in bits 4 and 3 of the register form are the same instruction, raise no fault, and the encoder
emits 00. -/
def Obligations.RegisterFormIgnoresBitsFourAndThree : Prop :=
  ∀ w v : Word, isAddReg w → w &&& 0xFFE7#16 = v &&& 0xFFE7#16 →
    decode v = decode w ∧ (∃ d a b, decode v = .addReg d a b) ∧ (∀ s, exec (decode v) s = exec (decode w) s) ∧
    (∀ s, ∃ t, exec (decode v) s = .next t ∧ t.run = s.run) ∧ encode (decode v) &&& 0x0018#16 = 0#16

/-- 30_encoding.md sections 1 and 4: the opcode table is closed and unambiguous: a word is in exactly one of its seventeen
rows, the row of the instruction the decoder reads. That the other fifteen values stay without an entry is decision D15. -/
def Obligations.EveryWordIsInOneTableRow : Prop :=
  ∀ w : Word, (decode w).row ∈ opcodeTable ∧ ∀ r ∈ opcodeTable, (r.holds w = true ↔ r = (decode w).row)

/-- Decode and encode agree: every instruction, with every operand at every value, is read back from its word. -/
def Obligations.DecodeOfEncodeIsTheInstruction : Prop := ∀ i : Instr, i.wf = true → decode (encode i) = i

/-- The other direction: a word is read back from its instruction but for bits 4 and 3 of the register form, which become 00
(30_encoding.md section 4, `Decode`, and section 3). The dropped and emitted 00 bits are log entry 11, the kept low twelve bits of
a row without a table entry log entry 12. -/
def Obligations.EncodeOfDecodeIsTheCanonicalWord : Prop :=
  ∀ w : Word, (isAddReg w → encode (decode w) = w &&& 0xFFE7#16) ∧ (¬ isAddReg w → encode (decode w) = w)

/-- The document's word and the spec's decode vectors (95_test_vectors.md sections 1.1 and 3.1), bits written out. -/
def Obligations.SampleWordsDecode : Prop :=
  decode 0b0001000001000010#16 = .addReg .r0 .r1 .r2 ∧ decode 0b0001000001011010#16 = .addReg .r0 .r1 .r2 ∧
  decode 0b0001000000011111#16 = .addReg .r0 .r0 .r7 ∧ decode 0b0001111000111111#16 = .addImm .r7 .r0 0b11111#5 ∧
  decode 0b0001000000100000#16 = .addImm .r0 .r0 0b00000#5 ∧ decode 0b0000111111111111#16 = .unsupported0000 0xFFF#12 ∧
  decode 0b0101000000100000#16 = .unsupported0101 0x020#12 ∧ decode 0b1111000000100101#16 = .unsupported1111 0x025#12

/-- The written form (30_encoding.md section 4, R72's notation, the spec's decision D14, log entry 22): an instruction is
assembled exactly from the well-formed text that writes it, and nothing out of range is clamped or wrapped. -/
def Obligations.AssemblerAcceptsExactlyWellFormedText : Prop :=
  ∀ (r : RawInstr) (i : Instr), r.assemble = some i ↔ (r.wf = true ∧ i.raw = r)

/-! ### Arithmetic-add and the condition code -/

/-- R104, R105, R106: both forms of ADD, and so every word whose opcode field is 0b0001, complete in every state; the sum is of
the values the sources held before; the destination and the condition code are the whole effect, so the pc, memory, the other
registers and run are as they were. -/
def Obligations.AddFormsWriteOnlySumAndCondition : Prop :=
  (∀ (d a b : RegId) (s : State), ∃ t, exec (.addReg d a b) s = .next t ∧ t.pc = s.pc ∧
    WritesSum s t d ((s.reg a).toNat + (s.reg b).toNat)) ∧
  (∀ (d a : RegId) (f : BitVec 5) (s : State), ∃ t, exec (.addImm d a f) s = .next t ∧ t.pc = s.pc ∧
    WritesSum s t d ((s.reg a).toNat + sext5 f.toNat)) ∧
  (∀ (w : Word) (s : State), w.toNat / 4096 = 1 → ∃ t, exec (decode w) s = .next t ∧ t.run = s.run)

/-- R100: one STEP on a register-form word: fields from the word's bits, sum modulo 2^16, SetCC, pc plus one, all else kept. -/
def Obligations.RegisterFormStep : Prop :=
  ∀ (s : State) (d a b : RegId), s.canFetch → isAddReg (s.memRead s.pc) →
    d.index = (s.memRead s.pc).toNat / 512 % 8 → a.index = (s.memRead s.pc).toNat / 64 % 8 →
    b.index = (s.memRead s.pc).toNat % 8 →
    ∃ t, step s = .next t ∧ t.pc.toNat = s.pc.toNat + 1 ∧ WritesSum s t d ((s.reg a).toNat + (s.reg b).toNat)

/-- R101: one STEP on an immediate-form word. -/
def Obligations.ImmediateFormStep : Prop :=
  ∀ (s : State) (d a : RegId), s.canFetch → isAddImm (s.memRead s.pc) →
    d.index = (s.memRead s.pc).toNat / 512 % 8 → a.index = (s.memRead s.pc).toNat / 64 % 8 →
    ∃ t, step s = .next t ∧ t.pc.toNat = s.pc.toNat + 1 ∧
      WritesSum s t d ((s.reg a).toNat + sext5 ((s.memRead s.pc).toNat % 32))

/-- R102: SetCC classifies the 16-bit result into exactly one of three values and changes nothing else; every instruction
that writes a destination applies it to the value written. -/
def Obligations.SetCcClassifiesWrittenResult : Prop :=
  (∀ (s : State) (r : Word), Classifies (s.applySetCC r).cc r ∧ (s.applySetCC r) = { s with cc := (s.applySetCC r).cc }) ∧
  (∀ (d a b : RegId) (s t : State), exec (.addReg d a b) s = .next t → Classifies t.cc (t.reg d)) ∧
  (∀ (d a : RegId) (f : BitVec 5) (s t : State), exec (.addImm d a f) s = .next t → Classifies t.cc (t.reg d))

/-- 42_arithmetic_add.md section 3: the sum is reduced modulo 65,536 on the unsigned reading and is the value of -32,768 to 32,767
congruent to the sum on the signed reading (R103's words). That the order and the grouping of the operands do not matter, that
adding #0 copies and that adding #-1 subtracts one modulo 65,536 are the spec's own inference ("derived: from the definition in
this rule"), so the statement is derived. -/
def Obligations.AdditionWrapsOnBothReadings : Prop :=
  (∀ (d a b : RegId) (s : State), ∃ t, exec (.addReg d a b) s = .next t ∧
    (t.reg d).toNat = ((s.reg a).toNat + (s.reg b).toNat) % 65536 ∧
    -32768 ≤ (t.reg d).toInt ∧ (t.reg d).toInt ≤ 32767 ∧
    (65536 : Int) ∣ (s.reg a).toInt + (s.reg b).toInt - (t.reg d).toInt ∧
    exec (.addReg d b a) s = .next t) ∧
  (∀ (d a : RegId) (f : BitVec 5) (s : State), ∃ t, exec (.addImm d a f) s = .next t ∧
    (65536 : Int) ∣ (s.reg a).toInt + f.toInt - (t.reg d).toInt ∧
    (f.toNat = 0 → t.reg d = s.reg a) ∧ (f.toNat = 31 → (t.reg d).toNat = ((s.reg a).toNat + 65535) % 65536)) ∧
  (∀ x y z : Word, x + y + z = x + (y + z))

/-! ### Rows without a table entry, and the fatal conditions -/

/-- 30_encoding.md section 4 and 60_exceptions.md sections 1 and 2: each of the fifteen rows completes by raising
UNSUPPORTED_OPCODE with the address and the word, and changes nothing else. The latched record is the spec's decisions D6, D7,
D15 and D20 (log entries 3, 6, 12). -/
def Obligations.UnsupportedRowsRaise : Prop :=
  RowRaises 0 .unsupported0000 ∧ RowRaises 2 .unsupported0010 ∧ RowRaises 3 .unsupported0011 ∧
  RowRaises 4 .unsupported0100 ∧ RowRaises 5 .unsupported0101 ∧ RowRaises 6 .unsupported0110 ∧
  RowRaises 7 .unsupported0111 ∧ RowRaises 8 .unsupported1000 ∧ RowRaises 9 .unsupported1001 ∧
  RowRaises 10 .unsupported1010 ∧ RowRaises 11 .unsupported1011 ∧ RowRaises 12 .unsupported1100 ∧
  RowRaises 13 .unsupported1101 ∧ RowRaises 14 .unsupported1110 ∧ RowRaises 15 .unsupported1111

/-- 60_exceptions.md sections 1 and 2: a STEP on a word whose opcode field is not 0b0001 records the address and the word and
changes nothing else, the pc included (decisions D6, D7; log entries 3, 6). -/
def Obligations.UnsupportedOpcodeStep : Prop :=
  ∀ s : State, s.canFetch → (s.memRead s.pc).toNat / 4096 ≠ 1 →
    ∃ t, step s = .next t ∧ RaisesOnly s t .unsupportedOpcode s.pc (some (s.memRead s.pc))

/-- 60_exceptions.md sections 1 and 2: a STEP at or past the end of the stream records the pc and no word, whatever memory holds
there (decisions D2, D6, D9; log entries 3, 5). -/
def Obligations.StreamExhaustionStep : Prop :=
  ∀ (s : State) (m : Memory), s.run = .running → s.streamLen.val ≤ s.pc.toNat →
    ∃ t, step { s with mem := m } = .next t ∧ RaisesOnly { s with mem := m } t .streamExhaustion s.pc none

/-- 41_instruction_cycle.md section 1 (decision D6, log entry 18): in FAULTED no number of STEPs changes anything. -/
def Obligations.FaultedMachineStays : Prop :=
  ∀ (n : Nat) (s : State), s.run ≠ .running → runSteps n s = .next s

/-- 60_exceptions.md section 2 (decision D6, log entry 18): the first fault of a run is kept: what a run shows once it has faulted, every longer
run shows too. -/
def Obligations.FirstFaultIsKept : Prop :=
  ∀ (n k : Nat) (s t : State), runSteps n s = .next t → t.run ≠ .running → runSteps (n + k) s = .next t

/-- 60_exceptions.md section 1 (decision D16, log entry 10): no number of STEPs raises INVALID_REGISTER; it is what the decode of
an integer outside 0 to 7 answers, and no 3-bit field is one. -/
def Obligations.InvalidRegisterIsNeverRaised : Prop :=
  (∀ (n : Nat) (s t : State), (∀ a w, s.run ≠ .faulted .invalidRegister a w) → runSteps n s = .next t →
    ∀ a w, t.run ≠ .faulted .invalidRegister a w) ∧
  (∀ n : Nat, 8 ≤ n → regOfIndex n = .error .invalidRegister) ∧
  (∀ f : BitVec 3, regOfIndex f.toNat = .ok (RegId.ofField f))

/-! ### The instruction cycle -/

/-- When the machine can fetch, a STEP is exec of the decoded word at the same state; if that leaves it RUNNING the pc is then
moved on by one, and if not the state stands as exec left it (41_instruction_cycle.md section 1; log entries 6 and 7). -/
def Obligations.StepRunsTheDecodedInstruction : Prop :=
  ∀ (s t : State) (i : Instr), s.canFetch → decode (s.memRead s.pc) = i → exec i s = .next t →
    (t.run = .running → step s = .next (t.setPc (s.pc + 1#16))) ∧ (t.run ≠ .running → step s = .next t)

/-- 41_instruction_cycle.md section 3: the whole STEP equals the spec's function (R99's pseudocode), in every state. That function
rests on the spec's own decisions D2 (the stream's bound), D6 (the run status and the no-op in FAULTED), D7 (the pc after a
fault) and D9 (the earlier stage wins), and on the reading of a fatal condition as a next state (log entries 3, 5, 6, 18), so
the statement is derived. -/
def Obligations.StepIsTheReferenceStep : Prop := ∀ s : State, step s = .next (stepOfSpec s)

/-- 60_exceptions.md section 4: no state is stuck and no word is refused at run time: every STEP has a next state. That
a fatal condition is a next state is the model's reading (log entry 3), and a STEP in FAULTED decision D6 (log entry 18). -/
def Obligations.EveryStepHasANextState : Prop := ∀ s : State, ∃ t, step s = .next t

/-- 10_state.md section 3: a STEP that completes leaves the pc one higher, without a wrap; one that does not leaves it alone. The
bound that excludes the wrap is decision D3, and the pc after a fault decision D7 (log entries 5, 6). -/
def Obligations.PcAdvancesByOneOrStays : Prop :=
  ∀ s t : State, (Completes s t → t.pc.toNat = s.pc.toNat + 1) ∧ (step s = .next t → t.run ≠ .running → t.pc = s.pc)

/-- 10_state.md sections 2 and 4: only a completed ADD changes a register or the condition code, and no register but the one
its bits 11..9 name. -/
def Obligations.OnlyAddChangesRegistersAndCondition : Prop :=
  ∀ s t : State, step s = .next t →
    (∀ j : RegId, t.reg j ≠ s.reg j →
      s.canFetch ∧ (s.memRead s.pc).toNat / 4096 = 1 ∧ j.index = (s.memRead s.pc).toNat / 512 % 8 ∧ t.run = .running) ∧
    (t.cc ≠ s.cc → s.canFetch ∧ (s.memRead s.pc).toNat / 4096 = 1 ∧ t.run = .running)

/-- 20_memory.md section 1 and 10_state.md section 1: during a run memory and STREAM_LEN are constant (that
STREAM_LEN stands in State is log entry 1). -/
def Obligations.MemoryIsConstantDuringARun : Prop :=
  ∀ (n : Nat) (s t : State), runSteps n s = .next t →
    (∀ a, t.memRead a = s.memRead a) ∧ t.mem = s.mem ∧ t.streamLen = s.streamLen

/-- 20_memory.md section 1 and 10_state.md section 4: a STEP reads no memory word but the one at the pc, and does not read the
condition code: changing the others changes nothing else in the outcome. -/
def Obligations.StepReadsOneWordAndNoCondition : Prop :=
  ∀ (s t : State) (m : Memory) (c : CondCode), step s = .next t → m.read s.pc = s.mem.read s.pc →
    ∃ u, step { s with mem := m, cc := c } = .next u ∧ u.x = t.x ∧ u.pc = t.pc ∧ u.run = t.run ∧ u.streamLen = t.streamLen ∧
      u.mem = m ∧ (t.run = .running → u.cc = t.cc) ∧ (t.run ≠ .running → u.cc = c)

/-- 20_memory.md section 4: a fetch returns the latest value written, with nothing needed between (decision D13). -/
def Obligations.FetchSeesTheLatestWrite : Prop :=
  ∀ (s : State) (v : Word), s.mem.wf → s.canFetch →
    step (s.memWrite s.pc v) = commit (s.pc + 1#16) (exec (decode v) (s.memWrite s.pc v))

/-! ### Invariant -/

/-- The reset state meets the invariant, whatever STREAM_LEN is (10_state.md section 8; log entry 2). -/
def Obligations.ResetStateIsSound : Prop := ∀ n : Config.StreamLen, (State.resetWith n).Inv

/-- Every launch state the host can make meets the invariant (70_reset_and_hazards.md section 1; log
entry 15). -/
def Obligations.LaunchStatesAreSound : Prop := ∀ ps : List Preload, (State.launch ps).Inv

/-- Every STEP keeps the invariant: canonical memory, the pc never past the end of the stream, a truthful fault record
(10_state.md sections 3 and 7, 60_exceptions.md sections 1 and 2; decisions D2, D3, D6, D7, D16, log entries 3, 5, 6, 8, 10). -/
def Obligations.StepKeepsInvariant : Prop := ∀ s t : State, s.Inv → step s = .next t → t.Inv

/-! ### Runs -/

/-- 70_reset_and_hazards.md section 2: a stream of ADDs runs one instruction a STEP to its end and the next STEP, and every later
one, shows STREAM_EXHAUSTION at its length with all else as the last ADD left it (decisions D2, D6, D7,
D11; log entries 3, 5, 6 for the kept pc, 18). -/
def Obligations.StreamOfAddsRunsToItsEnd : Prop :=
  ∀ s : State, s.run = .running → s.pc = 0#16 →
    (∀ a : Word, a.toNat < s.streamLen.val → (s.memRead a).toNat / 4096 = 1) →
    ∀ n : Nat,
      (n ≤ s.streamLen.val → ∃ t, runSteps n s = .next t ∧ t.run = .running ∧ t.pc.toNat = n) ∧
      (s.streamLen.val < n → ∃ u, runSteps s.streamLen.val s = .next u ∧
        runSteps n s = .next { u with run := .faulted .streamExhaustion (BitVec.ofNat 16 s.streamLen.val) none })

/-- 70_reset_and_hazards.md section 4: no run is infinite: from every state, after as many STEPs as the stream has words left and
one more, the machine is FAULTED (decisions D2, D6; log entries 3, 5). -/
def Obligations.EveryRunEndsInAFault : Prop :=
  ∀ (s : State) (n : Nat), s.streamLen.val - s.pc.toNat < n → ∃ t, runSteps n s = .next t ∧ t.run ≠ .running

/-! ### Reset and the host -/

/-- 10_state.md section 8: registers, pc and memory zero, whatever STREAM_LEN is; `cc` ZERO is the spec's decision D4 (log entry
4) and RUNNING its decision D6. The machine's own reset is one of these; its STREAM_LEN is the model's choice (log entry 2). -/
def Obligations.ResetLeavesZeroedMachine : Prop :=
  (∀ n : Config.StreamLen, (∀ i, (State.resetWith n).reg i = 0#16) ∧ (State.resetWith n).pc = 0#16 ∧
    (∀ a, (State.resetWith n).memRead a = 0#16) ∧ (State.resetWith n).cc = .zero ∧ (State.resetWith n).run = .running ∧
    (State.resetWith n).streamLen = n) ∧
  (∃ n, State.reset = State.resetWith n)

/-- 70_reset_and_hazards.md section 1: RESET leaves any session, a faulted one too, in the reset state, and PRELOAD is open again
(decision D1; that STREAM_LEN is then 0 is log entry 2). -/
def Obligations.ResetTransactionLeavesAnyState : Prop :=
  ∀ se : Session, ∃ s', se.transact .reset = .next s' ∧ s'.state = State.reset ∧ s'.phase = .loading

/-- 70_reset_and_hazards.md sections 1 and 4 (decision D10, log entry 15): before the first STEP the host's writes take effect; from
the first STEP on they are refused by name, and no transaction but STEP and RESET changes the machine. -/
def Obligations.HostWritesOnlyBeforeTheFirstStep : Prop :=
  (∀ (se : Session) (t : State), step se.state = .next t →
    ∃ s', se.transact .step = .next s' ∧ s'.state = t ∧ s'.phase = .stepping) ∧
  (∀ (se : Session) (p : Preload), se.phase = .loading →
    ∃ s', se.transact (.preload p) = .next s' ∧ s'.state = se.state.preload p ∧ s'.phase = .loading) ∧
  (∀ (se : Session) (ws : List Word), se.phase = .loading →
    (∀ t, se.state.loadStream ws = some t → ∃ s', se.transact (.loadStream ws) = .next s' ∧ s'.state = t ∧ s'.phase = .loading) ∧
    (se.state.loadStream ws = none → se.transact (.loadStream ws) = .refused .streamTooLong)) ∧
  (∀ se : Session, se.phase = .stepping → (∀ p, se.transact (.preload p) = .refused .hostWriteDuringRun) ∧
    (∀ ws, se.transact (.loadStream ws) = .refused .hostWriteDuringRun)) ∧
  (∀ (se s' : Session) (tr : Transaction), se.phase = .stepping → se.transact tr = .next s' → s'.state ≠ se.state →
    tr = .step ∨ tr = .reset)

/-- 70_reset_and_hazards.md section 1: a launch state is the reset state with some words and registers replaced; pc, cc and run are
as RESET left them, and what no PRELOAD named reads zero (decisions D4, D6, D10; log entries 4, 15). -/
def Obligations.LaunchStateKeepsPcCcAndRun : Prop :=
  ∀ ps : List Preload, (State.launch ps).pc = 0#16 ∧ (State.launch ps).cc = .zero ∧ (State.launch ps).run = .running ∧
    (∀ i, (∀ v, Preload.reg i v ∉ ps) → (State.launch ps).reg i = 0#16) ∧
    (∀ a, (∀ v, Preload.word a v ∉ ps) → (State.launch ps).memRead a = 0#16)

/-- 70_reset_and_hazards.md section 1 (decisions D2, D3; log entry 5): loading a stream puts word `k` at address `k` and sets STREAM_LEN to its
length, leaving the other words and all other state alone; 65,536 words or more are not loaded. -/
def Obligations.LoadedStreamStandsFromAddressZero : Prop :=
  ∀ (s : State) (ws : List Word), s.mem.wf →
    (65536 ≤ ws.length → s.loadStream ws = none) ∧
    (ws.length < 65536 → ∃ t, s.loadStream ws = some t ∧ t.streamLen.val = ws.length ∧
      (∀ k w, ws[k]? = some w → t.memRead (BitVec.ofNat 16 k) = w) ∧
      (∀ a : Word, ws.length ≤ a.toNat → t.memRead a = s.memRead a) ∧
      t.x = s.x ∧ t.pc = s.pc ∧ t.cc = s.cc ∧ t.run = s.run)

/-- 60_exceptions.md section 3 (decision D17): INSPECT answers the register, word, pc, cc or run as it stands, at any time, and
changes neither the machine nor the phase. -/
def Obligations.InspectReadsAndChangesNothing : Prop :=
  ∀ (se : Session) (q : Query), ∃ s', se.transact (.inspect q) = .next s' ∧ s'.state = se.state ∧ s'.phase = se.phase ∧
    (∀ i, q = .reg i → s'.answer = some (.word (se.state.reg i))) ∧
    (∀ a, q = .word a → s'.answer = some (.word (se.state.memRead a))) ∧
    (q = .pc → s'.answer = some (.word se.state.pc)) ∧ (q = .cc → s'.answer = some (.cc se.state.cc)) ∧
    (q = .run → s'.answer = some (.run se.state.run))

/-- 10_state.md section 4 (decision D5, log entry 14): the shown condition code has exactly one of its three flags set, and tells
the three values apart. -/
def Obligations.ShownConditionCodeIsOneHot : Prop :=
  (∀ c : CondCode, ∃ k, k < 3 ∧ c.oneHot.toNat = 2 ^ k) ∧ (∀ c d : CondCode, c.oneHot = d.oneHot → c = d) ∧
  CondCode.negative.oneHot = 0b100#3 ∧ CondCode.zero.oneHot = 0b010#3 ∧ CondCode.positive.oneHot = 0b001#3

/-- The model's placing of a word (log entry 16): from any state whose pc can be fetched from, the next STEP runs exactly that
word's instruction. -/
def Obligations.PlacedWordIsRunNext : Prop :=
  ∀ (s : State) (nbits w : Nat), s.mem.wf → s.pc.toNat < 65535 →
    step (s.withFetchWord nbits w) =
      commit (s.pc + 1#16) (exec (decode (BitVec.ofNat 16 (w % 2 ^ nbits))) (s.withFetchWord nbits w))
end

