-- ==== Sys2Proof/Laws/BitField.lean ====
section
/-! SUPPORT. Laws/BitField.lean: what each function of the bit-field extractor computes, as arithmetic on naturals. -/

namespace Sys2Proof

theorem extractField_toNat (w : Word) (h l : Nat) (hl : l ≤ h) (hh : h ≤ 15) :
    (extractField w h l hl hh).toNat = w.toNat / 2 ^ l % 2 ^ (h - l + 1) := by
  simp [extractField, BitVec.extractLsb_toNat, Nat.shiftRight_eq_div_pow]

/-- Concatenation as arithmetic: the left part above the right one. -/
theorem append_toNat {n m : Nat} (a : BitVec n) (b : BitVec m) : (a ++ b).toNat = a.toNat * 2 ^ m + b.toNat := by
  rw [BitVec.toNat_append, ← Nat.shiftLeft_add_eq_or_of_lt b.isLt, Nat.shiftLeft_eq]

theorem bitAt_toNat (w : Word) (i : Nat) (hi : i ≤ 15) : (bitAt w i hi).toNat = w.toNat / 2 ^ i % 2 := by
  simp [bitAt, BitVec.extractLsb'_toNat, Nat.shiftRight_eq_div_pow]

theorem isNegative_iff (w : Word) : isNegative w = true ↔ 32768 ≤ w.toNat := by
  have h := bitAt_toNat w 15 (by omega)
  have := w.isLt
  simp only [isNegative, beq_iff_eq, ← BitVec.toNat_inj, h]
  simp
  omega

/-- `sext_N` by cases on the sign bit of the field (R84). -/
theorem sext_toNat (N : Nat) (v : Word) (h1 : 1 ≤ N) (h2 : N ≤ 16) :
    (sext N v h1 h2).toNat =
      if v.toNat % 2 ^ N < 2 ^ (N - 1) then v.toNat % 2 ^ N else v.toNat % 2 ^ N + 65536 - 2 ^ N := by
  have hp : 2 ^ N = 2 * 2 ^ (N - 1) := by
    rw [← Nat.pow_succ']
    congr 1
    omega
  have hm : (v.setWidth N).toNat = v.toNat % 2 ^ N := BitVec.toNat_setWidth ..
  have hle : 2 ^ N ≤ 2 ^ 16 := Nat.pow_le_pow_right (by omega) h2
  have hlt : v.toNat % 2 ^ N < 2 ^ N := Nat.mod_lt _ (by positivity)
  have hmsb : (v.setWidth N).msb = decide (2 ^ (N - 1) ≤ v.toNat % 2 ^ N) := by
    rw [BitVec.msb_eq_decide, hm]
  simp only [sext, BitVec.toNat_signExtend, hmsb, BitVec.toNat_setWidth]
  rw [Nat.mod_eq_of_lt (a := v.toNat % 2 ^ N) (by omega)]
  by_cases hc : v.toNat % 2 ^ N < 2 ^ (N - 1)
  · simp [hc, Nat.not_le.mpr hc]
  · simp [hc, Nat.not_lt.mp hc]
    omega

/-- The immediate operand (R67): 0 to 15 as they stand, 16 to 31 as 0xFFF0 to 0xFFFF. -/
theorem Machine.immediate_toNat (imm5 : BitVec 5) :
    (Machine.immediate imm5).toNat = if imm5.toNat < 16 then imm5.toNat else imm5.toNat + 65504 := by
  have := imm5.isLt
  simp only [Machine.immediate, sext_toNat, BitVec.toNat_setWidth]
  rw [Nat.mod_eq_of_lt (a := imm5.toNat) (by omega), Nat.mod_eq_of_lt (a := imm5.toNat) (by omega)]
  norm_num
  rfl

end Sys2Proof
end

