-- ==== Sys2Proof/Laws/Encoding.lean ====
section
/-! SUPPORT. Laws/Encoding.lean: every instruction is well-formed; register fields and numbers correspond; what the decoder
answers, by the opcode field and the mode bit; the fields of encoded words. -/

namespace Sys2Proof

@[simp] theorem RegId.ofField_toField (r : RegId) : RegId.ofField r.toField = r := by cases r <;> rfl

@[simp] theorem RegId.toField_ofField (f : BitVec 3) : (RegId.ofField f).toField = f := by
  revert f
  decide

@[simp] theorem RegId.index_ofField (f : BitVec 3) : (RegId.ofField f).index = f.toNat := by
  revert f
  decide

theorem RegId.index_lt (r : RegId) : r.index < 8 := by cases r <;> decide

@[simp] theorem RegId.ofIndex_index (r : RegId) : RegId.ofIndex r.index = r := by cases r <;> rfl

theorem RegId.index_ofIndex {n : Nat} (h : n < 8) : (RegId.ofIndex n).index = n := by
  simp [RegId.ofIndex, Nat.mod_eq_of_lt h]

theorem RegId.index_inj {r q : RegId} (h : r.index = q.index) : r = q := by
  rw [← RegId.ofIndex_index r, h, RegId.ofIndex_index]

/-- The types of `Instr` admit only operands in range: no term is ill-formed. -/
theorem Instr.wf_all (i : Instr) : i.wf = true := by
  cases i with
  | addReg d a b => simp [Instr.wf, Instr.raw, RawInstr.wf, registerInRange, RegId.index_lt]
  | addImm d a f =>
    have h1 := f.le_toInt
    have h2 := f.toInt_lt
    simp [Instr.wf, Instr.raw, RawInstr.wf, registerInRange, immediateInRange, RegId.index_lt]
    omega
  | unsupported0000 low => have := low.isLt; simp [Instr.wf, Instr.raw, RawInstr.wf]; omega
  | unsupported0010 low => have := low.isLt; simp [Instr.wf, Instr.raw, RawInstr.wf]; omega
  | unsupported0011 low => have := low.isLt; simp [Instr.wf, Instr.raw, RawInstr.wf]; omega
  | unsupported0100 low => have := low.isLt; simp [Instr.wf, Instr.raw, RawInstr.wf]; omega
  | unsupported0101 low => have := low.isLt; simp [Instr.wf, Instr.raw, RawInstr.wf]; omega
  | unsupported0110 low => have := low.isLt; simp [Instr.wf, Instr.raw, RawInstr.wf]; omega
  | unsupported0111 low => have := low.isLt; simp [Instr.wf, Instr.raw, RawInstr.wf]; omega
  | unsupported1000 low => have := low.isLt; simp [Instr.wf, Instr.raw, RawInstr.wf]; omega
  | unsupported1001 low => have := low.isLt; simp [Instr.wf, Instr.raw, RawInstr.wf]; omega
  | unsupported1010 low => have := low.isLt; simp [Instr.wf, Instr.raw, RawInstr.wf]; omega
  | unsupported1011 low => have := low.isLt; simp [Instr.wf, Instr.raw, RawInstr.wf]; omega
  | unsupported1100 low => have := low.isLt; simp [Instr.wf, Instr.raw, RawInstr.wf]; omega
  | unsupported1101 low => have := low.isLt; simp [Instr.wf, Instr.raw, RawInstr.wf]; omega
  | unsupported1110 low => have := low.isLt; simp [Instr.wf, Instr.raw, RawInstr.wf]; omega
  | unsupported1111 low => have := low.isLt; simp [Instr.wf, Instr.raw, RawInstr.wf]; omega

/-- A word is its opcode field above its low twelve bits (R61). -/
theorem encodeOpcode_fields (w : Word) : encodeOpcode (extractField w 15 12) (extractField w 11 0) = w := by
  apply BitVec.eq_of_toNat_eq
  have h1 := extractField_toNat w 15 12 (by omega) (by omega)
  have h2 := extractField_toNat w 11 0 (by omega) (by omega)
  have := w.isLt
  rw [encodeOpcode, append_toNat]
  norm_num at h1 h2 ⊢
  omega

theorem encodeOpcode_toNat (op : BitVec 4) (low : BitVec 12) :
    (encodeOpcode op low).toNat = op.toNat * 4096 + low.toNat := by
  rw [encodeOpcode, append_toNat]
  norm_num

@[simp] theorem opcode_encodeOpcode (op : BitVec 4) (low : BitVec 12) :
    extractField (encodeOpcode op low) 15 12 = op := by
  apply BitVec.eq_of_toNat_eq
  have := op.isLt
  have := low.isLt
  rw [extractField_toNat, encodeOpcode_toNat]
  norm_num
  omega

@[simp] theorem low_encodeOpcode (op : BitVec 4) (low : BitVec 12) :
    extractField (encodeOpcode op low) 11 0 = low := by
  apply BitVec.eq_of_toNat_eq
  have := op.isLt
  have := low.isLt
  rw [extractField_toNat, encodeOpcode_toNat]
  norm_num
  omega

/-- The word of an ADD in register form, as arithmetic (R63). -/
theorem encodeAddReg_toNat (d a b : RegId) :
    (encodeAddReg d a b).toNat = 4096 + d.index * 512 + a.index * 64 + b.index := by
  cases d <;> cases a <;> cases b <;> rfl

/-- The word of an ADD in immediate form, as arithmetic (R64). -/
theorem encodeAddImm_toNat (d a : RegId) (f : BitVec 5) :
    (encodeAddImm d a f).toNat = 4096 + d.index * 512 + a.index * 64 + 32 + f.toNat := by
  rw [encodeAddImm, append_toNat]
  cases d <;> cases a <;> rfl

/-- Register form: the opcode field is 0b0001 and bit 5 is 0 (R63, R65). -/
theorem decode_addReg {w : Word} (ho : w.toNat / 4096 = 1) (hm : w.toNat / 32 % 2 = 0) :
    decode w = .addReg (RegId.ofField (extractField w 11 9)) (RegId.ofField (extractField w 8 6))
      (RegId.ofField (extractField w 2 0)) := by
  have h1 : extractField w 15 12 = 0b0001#4 := by
    apply BitVec.eq_of_toNat_eq
    rw [extractField_toNat]
    norm_num
    omega
  have h2 : bitAt w 5 = 0#1 := by
    apply BitVec.eq_of_toNat_eq
    rw [bitAt_toNat]
    norm_num
    omega
  rw [decode, if_pos h1, if_pos h2]

/-- Immediate form: the opcode field is 0b0001 and bit 5 is 1 (R64, R65). -/
theorem decode_addImm {w : Word} (ho : w.toNat / 4096 = 1) (hm : w.toNat / 32 % 2 = 1) :
    decode w = .addImm (RegId.ofField (extractField w 11 9)) (RegId.ofField (extractField w 8 6)) (extractField w 4 0) := by
  have h1 : extractField w 15 12 = 0b0001#4 := by
    apply BitVec.eq_of_toNat_eq
    rw [extractField_toNat]
    norm_num
    omega
  have h2 : ¬ bitAt w 5 = 0#1 := by
    rw [← BitVec.toNat_inj, bitAt_toNat]
    norm_num
    omega
  rw [decode, if_pos h1, if_neg h2]

/-- Any other opcode value: the row of that opcode, by name (R69). -/
theorem decode_unsupported {w : Word} (ho : w.toNat / 4096 ≠ 1) :
    decode w = unsupportedInstr (extractField w 15 12) (extractField w 11 0) := by
  have h1 : ¬ extractField w 15 12 = 0b0001#4 := by
    have := w.isLt
    rw [← BitVec.toNat_inj, extractField_toNat]
    norm_num
    omega
  rw [decode, if_neg h1]

/-- A property of the fifteen opcode values without a table entry holds of all of them when it holds of each. -/
theorem unsupported_cases {P : BitVec 4 → Instr → Prop} (low : BitVec 12)
    (h0000 : P 0b0000#4 (.unsupported0000 low)) (h0010 : P 0b0010#4 (.unsupported0010 low))
    (h0011 : P 0b0011#4 (.unsupported0011 low)) (h0100 : P 0b0100#4 (.unsupported0100 low))
    (h0101 : P 0b0101#4 (.unsupported0101 low)) (h0110 : P 0b0110#4 (.unsupported0110 low))
    (h0111 : P 0b0111#4 (.unsupported0111 low)) (h1000 : P 0b1000#4 (.unsupported1000 low))
    (h1001 : P 0b1001#4 (.unsupported1001 low)) (h1010 : P 0b1010#4 (.unsupported1010 low))
    (h1011 : P 0b1011#4 (.unsupported1011 low)) (h1100 : P 0b1100#4 (.unsupported1100 low))
    (h1101 : P 0b1101#4 (.unsupported1101 low)) (h1110 : P 0b1110#4 (.unsupported1110 low))
    (h1111 : P 0b1111#4 (.unsupported1111 low)) {op : BitVec 4} (h : op ≠ 0b0001#4) : P op (unsupportedInstr op low) := by
  obtain ⟨⟨n, hn⟩⟩ := op
  interval_cases n
  · exact h0000
  · exact absurd rfl h
  · exact h0010
  · exact h0011
  · exact h0100
  · exact h0101
  · exact h0110
  · exact h0111
  · exact h1000
  · exact h1001
  · exact h1010
  · exact h1011
  · exact h1100
  · exact h1101
  · exact h1110
  · exact h1111

/-- The encoder gives back the word an unsupported instruction was read from. -/
theorem encode_unsupportedInstr {op : BitVec 4} (low : BitVec 12) (h : op ≠ 0b0001#4) :
    encode (unsupportedInstr op low) = encodeOpcode op low :=
  unsupported_cases (P := fun op i => encode i = encodeOpcode op low) low
    rfl rfl rfl rfl rfl rfl rfl rfl rfl rfl rfl rfl rfl rfl rfl h

/-- The opcode field of a word without a table entry. -/
theorem opcode_ne_one {w : Word} (ho : w.toNat / 4096 ≠ 1) : extractField w 15 12 ≠ 0b0001#4 := by
  have := w.isLt
  rw [ne_eq, ← BitVec.toNat_inj, extractField_toNat]
  norm_num
  omega

end Sys2Proof
end

