-- ==== Sys2Proof/Laws/State.lean ====
section
/-! SUPPORT. Laws/State.lean: one lemma per field per update of the state, and what the register file and the condition-code
update do to it. -/

namespace Sys2Proof.Machine

variable (s : State)

@[simp] theorem State.memWrite_x (a v : Word) : (s.memWrite a v).x = s.x := rfl
@[simp] theorem State.memWrite_pc (a v : Word) : (s.memWrite a v).pc = s.pc := rfl
@[simp] theorem State.memWrite_cc (a v : Word) : (s.memWrite a v).cc = s.cc := rfl
@[simp] theorem State.memWrite_mem (a v : Word) : (s.memWrite a v).mem = s.mem.write a v := rfl
@[simp] theorem State.memWrite_run (a v : Word) : (s.memWrite a v).run = s.run := rfl
@[simp] theorem State.memWrite_streamLen (a v : Word) : (s.memWrite a v).streamLen = s.streamLen := rfl

@[simp] theorem State.setReg_x (i : RegId) (v : Word) : (s.setReg i v).x = s.x.set i v := rfl
@[simp] theorem State.setReg_pc (i : RegId) (v : Word) : (s.setReg i v).pc = s.pc := rfl
@[simp] theorem State.setReg_cc (i : RegId) (v : Word) : (s.setReg i v).cc = s.cc := rfl
@[simp] theorem State.setReg_mem (i : RegId) (v : Word) : (s.setReg i v).mem = s.mem := rfl
@[simp] theorem State.setReg_run (i : RegId) (v : Word) : (s.setReg i v).run = s.run := rfl
@[simp] theorem State.setReg_streamLen (i : RegId) (v : Word) : (s.setReg i v).streamLen = s.streamLen := rfl

@[simp] theorem State.setPc_x (t : Word) : (s.setPc t).x = s.x := rfl
@[simp] theorem State.setPc_pc (t : Word) : (s.setPc t).pc = t := rfl
@[simp] theorem State.setPc_cc (t : Word) : (s.setPc t).cc = s.cc := rfl
@[simp] theorem State.setPc_mem (t : Word) : (s.setPc t).mem = s.mem := rfl
@[simp] theorem State.setPc_run (t : Word) : (s.setPc t).run = s.run := rfl
@[simp] theorem State.setPc_streamLen (t : Word) : (s.setPc t).streamLen = s.streamLen := rfl

@[simp] theorem State.setCc_x (c : CondCode) : (s.setCc c).x = s.x := rfl
@[simp] theorem State.setCc_pc (c : CondCode) : (s.setCc c).pc = s.pc := rfl
@[simp] theorem State.setCc_cc (c : CondCode) : (s.setCc c).cc = c := rfl
@[simp] theorem State.setCc_mem (c : CondCode) : (s.setCc c).mem = s.mem := rfl
@[simp] theorem State.setCc_run (c : CondCode) : (s.setCc c).run = s.run := rfl
@[simp] theorem State.setCc_streamLen (c : CondCode) : (s.setCc c).streamLen = s.streamLen := rfl

@[simp] theorem State.setRun_x (r : RunStatus) : (s.setRun r).x = s.x := rfl
@[simp] theorem State.setRun_pc (r : RunStatus) : (s.setRun r).pc = s.pc := rfl
@[simp] theorem State.setRun_cc (r : RunStatus) : (s.setRun r).cc = s.cc := rfl
@[simp] theorem State.setRun_mem (r : RunStatus) : (s.setRun r).mem = s.mem := rfl
@[simp] theorem State.setRun_run (r : RunStatus) : (s.setRun r).run = r := rfl
@[simp] theorem State.setRun_streamLen (r : RunStatus) : (s.setRun r).streamLen = s.streamLen := rfl

@[simp] theorem State.setStreamLen_x (n : Config.StreamLen) : (s.setStreamLen n).x = s.x := rfl
@[simp] theorem State.setStreamLen_pc (n : Config.StreamLen) : (s.setStreamLen n).pc = s.pc := rfl
@[simp] theorem State.setStreamLen_cc (n : Config.StreamLen) : (s.setStreamLen n).cc = s.cc := rfl
@[simp] theorem State.setStreamLen_mem (n : Config.StreamLen) : (s.setStreamLen n).mem = s.mem := rfl
@[simp] theorem State.setStreamLen_run (n : Config.StreamLen) : (s.setStreamLen n).run = s.run := rfl
@[simp] theorem State.setStreamLen_streamLen (n : Config.StreamLen) : (s.setStreamLen n).streamLen = n := rfl

@[simp] theorem State.raise_x (c : Cause) (a : Word) (w : Option Word) : (s.raise c a w).x = s.x := rfl
@[simp] theorem State.raise_pc (c : Cause) (a : Word) (w : Option Word) : (s.raise c a w).pc = s.pc := rfl
@[simp] theorem State.raise_cc (c : Cause) (a : Word) (w : Option Word) : (s.raise c a w).cc = s.cc := rfl
@[simp] theorem State.raise_mem (c : Cause) (a : Word) (w : Option Word) : (s.raise c a w).mem = s.mem := rfl
@[simp] theorem State.raise_run (c : Cause) (a : Word) (w : Option Word) : (s.raise c a w).run = .faulted c a w := rfl
@[simp] theorem State.raise_streamLen (c : Cause) (a : Word) (w : Option Word) : (s.raise c a w).streamLen = s.streamLen := rfl

/-- A register read after a register write: the written value in the written register, the old value in every other (R21, R23). -/
@[simp] theorem RegFile.get_set (f : RegFile) (i j : RegId) (v : Word) :
    (f.set i v).get j = if j = i then v else f.get j := by
  cases i <;> cases j <;> rfl

/-- A register file is its eight registers. -/
theorem RegFile.ext_get {f g : RegFile} (h : ∀ i, f.get i = g.get i) : f = g := by
  cases f
  cases g
  have h0 := h .r0
  have h1 := h .r1
  have h2 := h .r2
  have h3 := h .r3
  have h4 := h .r4
  have h5 := h .r5
  have h6 := h .r6
  have h7 := h .r7
  simp only [RegFile.get] at h0 h1 h2 h3 h4 h5 h6 h7
  simp only [h0, h1, h2, h3, h4, h5, h6, h7]

@[simp] theorem RegFile.get_zero (i : RegId) : RegFile.zero.get i = 0#16 := by cases i <;> rfl

@[simp] theorem State.reg_setReg (i j : RegId) (v : Word) : (s.setReg i v).reg j = if j = i then v else s.reg j := by
  simp [State.reg]

/-- The condition code that `SetCC` writes (R102). -/
def CondCode.ofResult (r : Word) : CondCode :=
  if r = 0#16 then .zero else if isNegative r then .negative else .positive

/-- `SetCC` writes the condition code and nothing else. -/
theorem State.applySetCC_eq (r : Word) : s.applySetCC r = s.setCc (CondCode.ofResult r) := by
  unfold State.applySetCC CondCode.ofResult
  split
  · rfl
  · split <;> rfl

/-- A result writes its register and the condition code, and nothing else (R105). -/
theorem State.writeResult_eq (d : RegId) (r : Word) :
    s.writeResult d r = (s.setReg d r).setCc (CondCode.ofResult r) := State.applySetCC_eq _ _

@[simp] theorem State.writeResult_pc (d : RegId) (r : Word) : (s.writeResult d r).pc = s.pc := by
  simp [State.writeResult_eq]

@[simp] theorem State.writeResult_mem (d : RegId) (r : Word) : (s.writeResult d r).mem = s.mem := by
  simp [State.writeResult_eq]

@[simp] theorem State.writeResult_run (d : RegId) (r : Word) : (s.writeResult d r).run = s.run := by
  simp [State.writeResult_eq]

@[simp] theorem State.writeResult_streamLen (d : RegId) (r : Word) : (s.writeResult d r).streamLen = s.streamLen := by
  simp [State.writeResult_eq]

@[simp] theorem State.writeResult_cc (d : RegId) (r : Word) : (s.writeResult d r).cc = CondCode.ofResult r := by
  simp [State.writeResult_eq]

@[simp] theorem State.writeResult_x (d : RegId) (r : Word) : (s.writeResult d r).x = s.x.set d r := by
  simp [State.writeResult_eq]

@[simp] theorem State.reg_writeResult (d j : RegId) (r : Word) :
    (s.writeResult d r).reg j = if j = d then r else s.reg j := by
  simp [State.reg]

end Sys2Proof.Machine
end

