-- ==== Sys2Proof/Laws/Memory.lean ====
section
/-! SUPPORT. Laws/Memory.lean: what the memory operations do on a memory in canonical form, and that they keep it. -/

namespace Sys2Proof.Machine

/-- Addresses strictly rising. -/
abbrev Memory.rising (m : Memory) : Prop := m.Pairwise (fun p q => p.1 < q.1)

theorem Memory.lookup_of_forall_lt {k : Nat} :
    ∀ {m : Memory}, (∀ c ∈ m, k < c.1) → Memory.lookup k m = Memory.unlisted
  | [], _ => rfl
  | (a, v) :: rest, h => by
    have ha : k < a := h (a, v) (by simp)
    rw [Memory.lookup, if_neg (by omega)]
    exact Memory.lookup_of_forall_lt fun c hc => h c (by simp [hc])

theorem Memory.lookup_cons (j a : Nat) (u : Word) (rest : Memory) :
    Memory.lookup j ((a, u) :: rest) = if a = j then u else Memory.lookup j rest := rfl

theorem Memory.store_cons (k : Nat) (v : Word) (a : Nat) (u : Word) (rest : Memory) :
    Memory.store k v ((a, u) :: rest) =
      if a < k then (a, u) :: Memory.store k v rest
      else if a = k then (if v = Memory.unlisted then rest else (k, v) :: rest)
      else (if v = Memory.unlisted then (a, u) :: rest else (k, v) :: (a, u) :: rest) := rfl

/-- Read after write (R42): the written word at its address, the old word at every other. -/
theorem Memory.lookup_store (k : Nat) (v : Word) (j : Nat) :
    ∀ {m : Memory}, m.rising → Memory.lookup j (Memory.store k v m) = if j = k then v else Memory.lookup j m
  | [], _ => by
    by_cases hv : v = Memory.unlisted
    · rw [Memory.store, if_pos hv, hv]
      exact (ite_self _).symm
    · rw [Memory.store, if_neg hv, Memory.lookup_cons]
      exact if_congr eq_comm rfl rfl
  | (a, u) :: rest, h => by
    obtain ⟨hlt, hrest⟩ := List.pairwise_cons.mp h
    have hnone : ∀ i, i ≤ a → Memory.lookup i rest = Memory.unlisted := fun i hi =>
      Memory.lookup_of_forall_lt fun c hc => Nat.lt_of_le_of_lt hi (hlt c hc)
    have ih := Memory.lookup_store k v j hrest
    rw [Memory.store_cons]
    rcases Nat.lt_trichotomy a k with hak | hak | hak
    · rw [if_pos hak, Memory.lookup_cons, Memory.lookup_cons, ih]
      by_cases haj : a = j
      · rw [if_pos haj, if_pos haj, if_neg (by omega)]
      · rw [if_neg haj, if_neg haj]
    · rw [if_neg (by omega), if_pos hak, Memory.lookup_cons]
      by_cases hjk : j = k
      · rw [if_pos hjk]
        by_cases hv : v = Memory.unlisted
        · rw [if_pos hv, hv, hnone j (by omega)]
        · rw [if_neg hv, Memory.lookup_cons, if_pos hjk.symm]
      · rw [if_neg hjk, if_neg (by omega : ¬ a = j)]
        by_cases hv : v = Memory.unlisted
        · rw [if_pos hv]
        · rw [if_neg hv, Memory.lookup_cons, if_neg (by omega : ¬ k = j)]
    · rw [if_neg (by omega), if_neg (by omega)]
      by_cases hjk : j = k
      · rw [if_pos hjk]
        by_cases hv : v = Memory.unlisted
        · rw [if_pos hv, Memory.lookup_cons, if_neg (by omega : ¬ a = j), hnone j (by omega), hv]
        · rw [if_neg hv, Memory.lookup_cons, if_pos hjk.symm]
      · rw [if_neg hjk]
        by_cases hv : v = Memory.unlisted
        · rw [if_pos hv]
        · rw [if_neg hv, Memory.lookup_cons, if_neg (by omega : ¬ k = j)]

/-- A written memory holds no cell but the written one and the old ones. -/
theorem Memory.mem_store {k : Nat} {v : Word} {c : Cell} :
    ∀ {m : Memory}, c ∈ Memory.store k v m → (c = (k, v) ∧ v ≠ Memory.unlisted) ∨ c ∈ m
  | [], h => by
    rw [Memory.store] at h
    split at h
    · simp at h
    · exact .inl ⟨by simpa using h, ‹_›⟩
  | (a, u) :: rest, h => by
    rw [Memory.store_cons] at h
    split at h
    · rcases List.mem_cons.mp h with h | h
      · exact .inr (by simp [h])
      · exact (Memory.mem_store h).imp id (fun h => by simp [h])
    · split at h <;> split at h
      · exact .inr (by simp [h])
      · rcases List.mem_cons.mp h with h | h
        · exact .inl ⟨h, ‹_›⟩
        · exact .inr (by simp [h])
      · exact .inr h
      · rcases List.mem_cons.mp h with h | h
        · exact .inl ⟨h, ‹_›⟩
        · exact .inr h

/-- A write keeps the addresses rising. -/
theorem Memory.store_rising {k : Nat} {v : Word} : ∀ {m : Memory}, m.rising → (Memory.store k v m).rising
  | [], _ => by
    rw [Memory.store]
    split <;> simp [Memory.rising]
  | (a, u) :: rest, h => by
    obtain ⟨hlt, hrest⟩ := List.pairwise_cons.mp h
    rw [Memory.store_cons]
    split
    · refine List.pairwise_cons.mpr ⟨fun c hc => ?_, Memory.store_rising hrest⟩
      rcases Memory.mem_store hc with ⟨rfl, _⟩ | hc
      · assumption
      · exact hlt c hc
    · split <;> split
      · exact hrest
      · refine List.pairwise_cons.mpr ⟨fun c hc => ?_, hrest⟩
        have := hlt c hc
        simp only at this ⊢
        omega
      · exact h
      · refine List.pairwise_cons.mpr ⟨fun c hc => ?_, h⟩
        rcases List.mem_cons.mp hc with rfl | hc
        · simp only
          omega
        · have := hlt c hc
          simp only at this ⊢
          omega

/-- A write keeps the canonical form. -/
theorem Memory.store_wf {k : Nat} {v : Word} {m : Memory} (hk : k < Config.memWords) (h : m.wf) :
    (Memory.store k v m).wf := by
  refine ⟨Memory.store_rising h.1, fun c hc => ?_⟩
  rcases Memory.mem_store hc with ⟨rfl, hv⟩ | hc
  · exact ⟨hk, hv⟩
  · exact h.2 c hc

theorem Memory.write_wf {m : Memory} (h : m.wf) (a v : Word) : (m.write a v).wf :=
  Memory.store_wf (by have := a.isLt; simpa [Config.memWords] using this) h

/-- The one law of reading and writing memory, by word address (R41, R42). -/
theorem Memory.read_write {m : Memory} (h : m.wf) (a b v : Word) :
    (m.write a v).read b = if b = a then v else m.read b := by
  rw [Memory.read, Memory.write, Memory.lookup_store _ _ _ h.1]
  simp [Memory.read, BitVec.toNat_inj]

theorem Memory.reset_wf : Memory.wf [] := by simp [Memory.wf]

@[simp] theorem Memory.read_nil (a : Word) : Memory.read [] a = 0#16 := rfl

/-- Read after write, of the machine (R42). -/
theorem State.memRead_memWrite {s : State} (h : s.mem.wf) (a b v : Word) :
    (s.memWrite a v).memRead b = if b = a then v else s.memRead b := Memory.read_write h a b v

end Sys2Proof.Machine
end

