-- ==== Sys2Proof/Laws/PerInstr.lean ====
section
/-! SUPPORT. Laws/PerInstr.lean: the family EncodedInRow: the word of an instruction lies in the instruction's own row of the
opcode table, and that row is a row of the table. -/

namespace Sys2Proof.Laws.EncodedInRow

/-- The encoded word matches the instruction's row (R63, R64, R69), which the table holds (R62). -/
def Statement (i : Instr) : Prop := i.row.holds (encode i) = true ∧ i.row ∈ opcodeTable

theorem addReg (dr sr1 sr2 : RegId) : Statement (.addReg dr sr1 sr2) := by
  refine ⟨?_, by simp [opcodeTable, Instr.row]⟩
  cases dr <;> cases sr1 <;> cases sr2 <;> rfl

theorem addImm (dr sr1 : RegId) (imm5 : BitVec 5) : Statement (.addImm dr sr1 imm5) := by
  refine ⟨?_, by simp [opcodeTable, Instr.row]⟩
  revert imm5
  cases dr <;> cases sr1 <;> decide

/-- A reserved row is the opcode field: the mask keeps it and drops the twelve bits below. -/
theorem unsupportedRow_holds (name : String) (op : BitVec 4) (low : BitVec 12) :
    (unsupportedRow name op).holds (encodeOpcode op low) = true := by
  simp only [OpcodeRow.holds, unsupportedRow, encodeOpcode, beq_iff_eq]
  have h : (0xF000#16 : BitVec 16) = 0xF#4 ++ 0#12 := by decide
  have hop : op &&& 0xF#4 = op := by
    revert op
    decide
  have hlow : low &&& 0#12 = 0#12 := BitVec.and_zero
  rw [h, BitVec.and_append, hop, hlow]

theorem unsupported0000 (low : BitVec 12) : Statement (.unsupported0000 low) :=
  ⟨unsupportedRow_holds _ _ low, by simp [opcodeTable, Instr.row]⟩

theorem unsupported0010 (low : BitVec 12) : Statement (.unsupported0010 low) :=
  ⟨unsupportedRow_holds _ _ low, by simp [opcodeTable, Instr.row]⟩

theorem unsupported0011 (low : BitVec 12) : Statement (.unsupported0011 low) :=
  ⟨unsupportedRow_holds _ _ low, by simp [opcodeTable, Instr.row]⟩

theorem unsupported0100 (low : BitVec 12) : Statement (.unsupported0100 low) :=
  ⟨unsupportedRow_holds _ _ low, by simp [opcodeTable, Instr.row]⟩

theorem unsupported0101 (low : BitVec 12) : Statement (.unsupported0101 low) :=
  ⟨unsupportedRow_holds _ _ low, by simp [opcodeTable, Instr.row]⟩

theorem unsupported0110 (low : BitVec 12) : Statement (.unsupported0110 low) :=
  ⟨unsupportedRow_holds _ _ low, by simp [opcodeTable, Instr.row]⟩

theorem unsupported0111 (low : BitVec 12) : Statement (.unsupported0111 low) :=
  ⟨unsupportedRow_holds _ _ low, by simp [opcodeTable, Instr.row]⟩

theorem unsupported1000 (low : BitVec 12) : Statement (.unsupported1000 low) :=
  ⟨unsupportedRow_holds _ _ low, by simp [opcodeTable, Instr.row]⟩

theorem unsupported1001 (low : BitVec 12) : Statement (.unsupported1001 low) :=
  ⟨unsupportedRow_holds _ _ low, by simp [opcodeTable, Instr.row]⟩

theorem unsupported1010 (low : BitVec 12) : Statement (.unsupported1010 low) :=
  ⟨unsupportedRow_holds _ _ low, by simp [opcodeTable, Instr.row]⟩

theorem unsupported1011 (low : BitVec 12) : Statement (.unsupported1011 low) :=
  ⟨unsupportedRow_holds _ _ low, by simp [opcodeTable, Instr.row]⟩

theorem unsupported1100 (low : BitVec 12) : Statement (.unsupported1100 low) :=
  ⟨unsupportedRow_holds _ _ low, by simp [opcodeTable, Instr.row]⟩

theorem unsupported1101 (low : BitVec 12) : Statement (.unsupported1101 low) :=
  ⟨unsupportedRow_holds _ _ low, by simp [opcodeTable, Instr.row]⟩

theorem unsupported1110 (low : BitVec 12) : Statement (.unsupported1110 low) :=
  ⟨unsupportedRow_holds _ _ low, by simp [opcodeTable, Instr.row]⟩

theorem unsupported1111 (low : BitVec 12) : Statement (.unsupported1111 low) :=
  ⟨unsupportedRow_holds _ _ low, by simp [opcodeTable, Instr.row]⟩

end Sys2Proof.Laws.EncodedInRow
end

