-- ==== Sys2Proof/Laws/Step.lean ====
section
/-! SUPPORT. Laws/Step.lean: what exec can answer, and what one STEP can do, said once. -/

namespace Sys2Proof.Machine

/-- Every row without a table entry raises UNSUPPORTED_OPCODE with its own word (R69, R112). -/
theorem exec_unsupportedInstr {op : BitVec 4} (low : BitVec 12) (s : State) (h : op ≠ 0b0001#4) :
    exec (unsupportedInstr op low) s = .next (raiseUnsupportedOpcode (encodeOpcode op low) s) :=
  unsupported_cases (P := fun op i => exec i s = .next (raiseUnsupportedOpcode (encodeOpcode op low) s)) low
    rfl rfl rfl rfl rfl rfl rfl rfl rfl rfl rfl rfl rfl rfl rfl h

/-- What an instruction can do: write a result, or raise UNSUPPORTED_OPCODE with its own word. -/
theorem exec_cases (i : Instr) (s : State) :
    (∃ d a b, i = .addReg d a b ∧ exec i s = .next (s.writeResult d (s.reg a + s.reg b))) ∨
    (∃ d a f, i = .addImm d a f ∧ exec i s = .next (s.writeResult d (s.reg a + immediate f))) ∨
    exec i s = .next (raiseUnsupportedOpcode (encode i) s) := by
  cases i with
  | addReg d a b => exact .inl ⟨d, a, b, rfl, rfl⟩
  | addImm d a f => exact .inr (.inl ⟨d, a, f, rfl, rfl⟩)
  | unsupported0000 low => exact .inr (.inr rfl)
  | unsupported0010 low => exact .inr (.inr rfl)
  | unsupported0011 low => exact .inr (.inr rfl)
  | unsupported0100 low => exact .inr (.inr rfl)
  | unsupported0101 low => exact .inr (.inr rfl)
  | unsupported0110 low => exact .inr (.inr rfl)
  | unsupported0111 low => exact .inr (.inr rfl)
  | unsupported1000 low => exact .inr (.inr rfl)
  | unsupported1001 low => exact .inr (.inr rfl)
  | unsupported1010 low => exact .inr (.inr rfl)
  | unsupported1011 low => exact .inr (.inr rfl)
  | unsupported1100 low => exact .inr (.inr rfl)
  | unsupported1101 low => exact .inr (.inr rfl)
  | unsupported1110 low => exact .inr (.inr rfl)
  | unsupported1111 low => exact .inr (.inr rfl)

theorem step_of_faulted {s : State} {c a w} (h : s.run = .faulted c a w) : step s = .next s := by
  simp only [step, stepByStatus, h]

theorem step_of_exhausted {s : State} (hr : s.run = .running) (h : s.streamLen.val ≤ s.pc.toNat) :
    step s = .next (raiseStreamExhaustion s) := by
  simp only [step, stepByStatus, hr, cycle, fetch, if_neg (Nat.not_lt.mpr h)]

/-- A machine that can fetch runs the instruction it decodes and commits. -/
theorem step_of_canFetch {s : State} (h : s.canFetch) :
    step s = commit (s.pc + 1#16) (exec (decode (s.memRead s.pc)) s) := by
  simp only [step, stepByStatus, h.1, cycle, fetch, if_pos h.2]

/-- One STEP, said once: a faulted machine stays; a running one at the end of the stream raises STREAM_EXHAUSTION; otherwise
the word at the pc is an ADD, which completes and moves the pc on, or raises UNSUPPORTED_OPCODE. -/
theorem step_cases (s : State) :
    ((∃ c a w, s.run = .faulted c a w) ∧ step s = .next s) ∨
    (s.run = .running ∧ s.streamLen.val ≤ s.pc.toNat ∧ step s = .next (raiseStreamExhaustion s)) ∨
    (s.canFetch ∧ (s.memRead s.pc).toNat / 4096 = 1 ∧
      (∃ d a b, decode (s.memRead s.pc) = .addReg d a b ∧
        step s = .next ((s.writeResult d (s.reg a + s.reg b)).setPc (s.pc + 1#16)))) ∨
    (s.canFetch ∧ (s.memRead s.pc).toNat / 4096 = 1 ∧
      (∃ d a f, decode (s.memRead s.pc) = .addImm d a f ∧
        step s = .next ((s.writeResult d (s.reg a + immediate f)).setPc (s.pc + 1#16)))) ∨
    (s.canFetch ∧ (s.memRead s.pc).toNat / 4096 ≠ 1 ∧
      step s = .next (raiseUnsupportedOpcode (s.memRead s.pc) s)) := by
  cases hr : s.run with
  | faulted c a w => exact .inl ⟨⟨c, a, w, rfl⟩, step_of_faulted hr⟩
  | running =>
    by_cases hf : s.pc.toNat < s.streamLen.val
    · have hs := step_of_canFetch ⟨hr, hf⟩
      by_cases ho : (s.memRead s.pc).toNat / 4096 = 1
      · rcases Nat.mod_two_eq_zero_or_one ((s.memRead s.pc).toNat / 32) with hm | hm
        · refine .inr (.inr (.inl ⟨⟨hr, hf⟩, ho, _, _, _, decode_addReg ho hm, ?_⟩))
          rw [hs, decode_addReg ho hm]
          simp only [exec, execAddReg, commit, State.writeResult_run, hr, if_true]
        · refine .inr (.inr (.inr (.inl ⟨⟨hr, hf⟩, ho, _, _, _, decode_addImm ho hm, ?_⟩)))
          rw [hs, decode_addImm ho hm]
          simp only [exec, execAddImm, commit, State.writeResult_run, hr, if_true]
      · refine .inr (.inr (.inr (.inr ⟨⟨hr, hf⟩, ho, ?_⟩)))
        rw [hs, decode_unsupported ho, exec_unsupportedInstr _ _ (opcode_ne_one ho), encodeOpcode_fields]
        simp [commit, raiseUnsupportedOpcode]
    · exact .inr (.inl ⟨rfl, Nat.not_lt.mp hf, step_of_exhausted hr (Nat.not_lt.mp hf)⟩)

theorem runSteps_zero (s : State) : runSteps 0 s = .next s := rfl

theorem runSteps_succ (n : Nat) (s : State) :
    runSteps (n + 1) s = match step s with
      | .next t => runSteps n t
      | .fault f => .fault f
      | .refused r => .refused r := by
  simp only [runSteps, Host.Core.run]
  rw [show Sys2Proof.core.step s = step s from rfl]
  cases step s <;> rfl

end Sys2Proof.Machine
end

