-- ==== Sys2Proof/Tests/Slice0.lean ====
section
/-! SUPPORT. Tests/Slice0.lean: tests on fixed values, every expected result taken from spec/ (the place is named), and one witness
for the hypotheses of each statement that has some. -/

open Sys2Proof Sys2Proof.Machine Sys2Proof.Reference

namespace Sys2Proof.Tests

/-- A RUNNING machine at `pc` with the stream up to `n` and the word `w` at `pc`. -/
def at_ (pc : Word) (n : Config.StreamLen) (w : Word) : State :=
  ((State.resetWith n).setPc pc).memWrite pc w

/-- One part of a next state. -/
def look {α : Type} (f : State → α) : Host.Outcome State Fault Refusal → Option α
  | .next t => some (f t)
  | .fault _ => none
  | .refused _ => none

/-- A register, the condition code and the pc after one step. -/
def after (s : State) (i : RegId) : Option (Word × CondCode × Word) :=
  look (fun t => (t.reg i, t.cc, t.pc)) (step s)

/-! ### WellFormed: each check refuses an ill-formed term (R22, R72, R69) -/

theorem test_wf_accepts_extremes :
    (RawInstr.addImm 7 0 (-16)).wf = true ∧ (RawInstr.addImm 0 7 15).wf = true ∧ (RawInstr.addReg 7 7 7).wf = true ∧
    (RawInstr.unsupported 15 4095).wf = true := by decide

theorem test_wf_refuses_destination : (RawInstr.addReg 8 0 0).wf = false ∧ (RawInstr.addImm 8 0 0).wf = false := by decide

theorem test_wf_refuses_first_source : (RawInstr.addReg 0 8 0).wf = false ∧ (RawInstr.addImm 0 8 0).wf = false := by decide

theorem test_wf_refuses_second_source : (RawInstr.addReg 0 0 8).wf = false := by decide

theorem test_wf_refuses_immediate : (RawInstr.addImm 0 0 16).wf = false ∧ (RawInstr.addImm 0 0 (-17)).wf = false := by decide

theorem test_wf_refuses_opcode : (RawInstr.unsupported 16 0).wf = false ∧ (RawInstr.unsupported 1 0).wf = false := by decide

theorem test_wf_refuses_low_bits : (RawInstr.unsupported 0 4096).wf = false := by decide

theorem test_assemble : (RawInstr.addImm 7 0 (-1)).assemble = some (.addImm .r7 .r0 0b11111#5) ∧
    (RawInstr.addReg 9 0 0).assemble = none := by decide

/-! ### Bit-field extractor (95_test_vectors.md sections 2.1 and 2.2) -/

theorem test_extractField : extractField 0x1042#16 15 12 = 1#4 ∧ extractField 0x1042#16 4 0 = 2#5 ∧
    extractField 0xA5C3#16 15 12 = 10#4 ∧ extractField 0xA5C3#16 11 9 = 2#3 ∧ extractField 0xA5C3#16 8 6 = 7#3 ∧
    extractField 0x8000#16 14 0 = 0#15 ∧ extractField 0x8000#16 15 15 = 1#1 := by decide

theorem test_bitAt : bitAt 0x1042#16 5 = 0#1 ∧ bitAt 0x103F#16 5 = 1#1 ∧ bitAt 0x8000#16 15 = 1#1 ∧ bitAt 0xFFFE#16 0 = 0#1 := by decide

theorem test_isNegative : isNegative 0x7FFF#16 = false ∧ isNegative 0x8000#16 = true ∧ isNegative 0#16 = false := by decide

theorem test_bitWidth : [0#16, 1#16, 2#16, 3#16, 4#16, 5#16, 15#16, 16#16, 31#16, 0x7FFF#16, 0x8000#16, 0xFFFF#16].map bitWidth =
    [1, 1, 2, 2, 3, 3, 4, 5, 5, 15, 16, 16] := by decide

/-- Table V-SEXT5, rows 0 to 15 and 16 to 31. -/
theorem test_sext5_positive : (List.range 16).map (fun n => sext 5 (BitVec.ofNat 16 n)) =
    [0x0000#16, 0x0001#16, 0x0002#16, 0x0003#16, 0x0004#16, 0x0005#16, 0x0006#16, 0x0007#16] ++
    [0x0008#16, 0x0009#16, 0x000A#16, 0x000B#16, 0x000C#16, 0x000D#16, 0x000E#16, 0x000F#16] := by decide

theorem test_sext5_negative : (List.range 16).map (fun n => sext 5 (BitVec.ofNat 16 (16 + n))) =
    [0xFFF0#16, 0xFFF1#16, 0xFFF2#16, 0xFFF3#16, 0xFFF4#16, 0xFFF5#16, 0xFFF6#16, 0xFFF7#16] ++
    [0xFFF8#16, 0xFFF9#16, 0xFFFA#16, 0xFFFB#16, 0xFFFC#16, 0xFFFD#16, 0xFFFE#16, 0xFFFF#16] := by decide

theorem test_sext_widths : sext 1 1#16 = 0xFFFF#16 ∧ sext 8 0x80#16 = 0xFF80#16 ∧ sext 8 0x7F#16 = 0x007F#16 ∧
    sext 9 0x100#16 = 0xFF00#16 ∧ sext 16 0x8000#16 = 0x8000#16 ∧ zext 5 0x1F#16 = 0x001F#16 := by decide

/-! ### Decoding: words written out bit by bit (95_test_vectors.md sections 1.1 and 3.1; R63, R64, R69) -/

theorem test_decode_addReg : decode 0b0001000001000010#16 = .addReg .r0 .r1 .r2 ∧
    decode 0b0001100011000011#16 = .addReg .r4 .r3 .r3 ∧ decode 0b0001101110001111#16 = .addReg .r5 .r6 .r7 ∧
    decode 0b0001000000011111#16 = .addReg .r0 .r0 .r7 ∧ decode 0b0001111111011111#16 = .addReg .r7 .r7 .r7 := by decide

theorem test_decode_addImm : decode 0b0001000000111111#16 = .addImm .r0 .r0 0b11111#5 ∧
    decode 0b0001111000111111#16 = .addImm .r7 .r0 0b11111#5 ∧ decode 0b0001110111110100#16 = .addImm .r6 .r7 0b10100#5 ∧
    decode 0b0001000000100000#16 = .addImm .r0 .r0 0b00000#5 := by decide

theorem test_decode_unsupported :
    decode 0b0000000000100101#16 = .unsupported0000 0x025#12 ∧
    decode 0b0010000000100101#16 = .unsupported0010 0x025#12 ∧
    decode 0b0011000000100101#16 = .unsupported0011 0x025#12 ∧
    decode 0b0100000000100101#16 = .unsupported0100 0x025#12 ∧
    decode 0b0101000000100101#16 = .unsupported0101 0x025#12 ∧
    decode 0b0110000000100101#16 = .unsupported0110 0x025#12 ∧
    decode 0b0111000000100101#16 = .unsupported0111 0x025#12 ∧
    decode 0b1000000000100101#16 = .unsupported1000 0x025#12 ∧
    decode 0b1001000000100101#16 = .unsupported1001 0x025#12 ∧
    decode 0b1010000000100101#16 = .unsupported1010 0x025#12 ∧
    decode 0b1011000000100101#16 = .unsupported1011 0x025#12 ∧
    decode 0b1100000000100101#16 = .unsupported1100 0x025#12 ∧
    decode 0b1101000000100101#16 = .unsupported1101 0x025#12 ∧
    decode 0b1110000000100101#16 = .unsupported1110 0x025#12 ∧
    decode 0b1111000000100101#16 = .unsupported1111 0x025#12 := by decide

theorem test_encode : encode (.addReg .r0 .r1 .r2) = 0x1042#16 ∧ encode (.addImm .r6 .r7 0b10100#5) = 0x1DF4#16 ∧
    encode (.unsupported1111 0x025#12) = 0xF025#16 := by decide

theorem test_table_rows_do_not_overlap :
    (opcodeTable.map fun r => (opcodeTable.filter fun q => q.holds r.pattern).length) = List.replicate 17 1 := by decide

theorem test_decodeTableWord : decodeTableWord 16 0x1000 = some (.addReg .r0 .r0 .r0) ∧
    decodeTableWord 16 0xD000 = some (.unsupported1101 0#12) ∧ decodeTableWord 17 0x1000 = none := by decide

/-! ### ADD, register form (95_test_vectors.md sections 1.1 and 3.2) -/

/-- S1: R1 = 11, R2 = 5 gives R0 = 16, POSITIVE, pc 1. -/
theorem test_addReg_scenario : after (((at_ 0#16 1 0x1042#16).setReg .r1 11#16).setReg .r2 5#16) .r0 =
    some (16#16, .positive, 1#16) := by decide

/-- 0x7FFF + 0x0001 is 0x8000, NEGATIVE, no fault; DR = SR2 reads the source first (0x14C2). -/
theorem test_addReg_overflow_and_overlap :
    after (((at_ 5#16 6 0x1042#16).setReg .r1 0x7FFF#16).setReg .r2 1#16) .r0 = some (0x8000#16, .negative, 6#16) ∧
    after (((at_ 5#16 6 0x14C2#16).setReg .r3 1#16).setReg .r2 0x00FF#16) .r2 = some (0x0100#16, .positive, 6#16) := by decide

/-! ### ADD, immediate form (sections 1.1, 3.3 and 4) -/

/-- S3 and X2: #-1 is sign-extended, #3 is not read as negative. -/
theorem test_addImm_sign : after (at_ 0#16 1 0x103F#16) .r0 = some (0xFFFF#16, .negative, 1#16) ∧
    after ((at_ 0#16 1 0x1DE3#16).setReg .r7 0x0010#16) .r6 = some (0x0013#16, .positive, 1#16) := by decide

/-- 0x1961 on 0xFFFF wraps to zero; F3: the last fetchable address leaves the pc at 0xFFFF. -/
theorem test_addImm_wrap : after ((at_ 0#16 1 0x1961#16).setReg .r5 0xFFFF#16) .r4 = some (0#16, .zero, 1#16) ∧
    after (at_ 0xFFFE#16 65535 0x1021#16) .r0 = some (1#16, .positive, 0xFFFF#16) := by decide

/-- Section 3.4. -/
theorem test_setCC : [0x0000#16, 0x0001#16, 0x0100#16, 0x7FFF#16, 0x8000#16, 0x8001#16, 0xFFFF#16].map
    (fun r => (State.reset.applySetCC r).cc.oneHot) =
    [0b010#3, 0b001#3, 0b001#3, 0b001#3, 0b100#3, 0b100#3, 0b100#3] := by decide

/-! ### Rows without an entry, and the fatal conditions (section 3.5) -/

/-- Each of the fifteen rows stops the run with its own word, the pc where it was. -/
theorem test_unsupported_rows_raise :
    ([0x0, 0x2, 0x3, 0x4, 0x5, 0x6, 0x7, 0x8, 0x9, 0xA, 0xB, 0xC, 0xD, 0xE, 0xF].map fun op =>
      look (fun t => (t.run, t.pc)) (step (at_ 5#16 6 (BitVec.ofNat 16 (op * 4096 + 0xA3F))))) =
    ([0x0A3F#16, 0x2A3F#16, 0x3A3F#16, 0x4A3F#16, 0x5A3F#16, 0x6A3F#16, 0x7A3F#16, 0x8A3F#16, 0x9A3F#16, 0xAA3F#16, 0xBA3F#16,
      0xCA3F#16, 0xDA3F#16, 0xEA3F#16, 0xFA3F#16].map fun w => some (.faulted .unsupportedOpcode 5#16 (some w), 5#16)) := by decide

/-- F6: registers and `cc` stay. -/
theorem test_unsupported_changes_nothing_else :
    look (fun t => (t.run, t.reg .r0, t.cc, t.pc)) (step (((at_ 2#16 3 0xF025#16).setReg .r0 0x1234#16).setCc .positive)) =
    some (.faulted .unsupportedOpcode 2#16 (some 0xF025#16), 0x1234#16, .positive, 2#16) := by decide

/-- F1, F2, F4 and F7: at the bound, on the empty stream, at the top of memory, and before an unsupported word. -/
theorem test_stream_exhaustion :
    look (fun t => (t.run, t.pc)) (step (at_ 3#16 3 0x1042#16)) = some (.faulted .streamExhaustion 3#16 none, 3#16) ∧
    look (fun t => (t.run, t.pc)) (step State.reset) = some (.faulted .streamExhaustion 0#16 none, 0#16) ∧
    look (fun t => (t.run, t.pc)) (step (at_ 0xFFFF#16 65535 0x1042#16)) =
      some (.faulted .streamExhaustion 0xFFFF#16 none, 0xFFFF#16) ∧
    look (fun t => (t.run, t.pc)) (step (at_ 2#16 2 0xF025#16)) = some (.faulted .streamExhaustion 2#16 none, 2#16) := by decide

/-- F5: an unloaded word inside the stream is an unsupported instruction, not a no-op. -/
theorem test_zero_word_raises : look (fun t => t.run) (step (State.resetWith 1)) =
    some (.faulted .unsupportedOpcode 0#16 (some 0#16)) := by decide

/-- F8: in FAULTED a STEP is a no-op and the first record is kept. -/
theorem test_faulted_stays : look (fun t => t) (step ((at_ 0#16 1 0x1042#16).raise .streamExhaustion 7#16 none)) =
    some ((at_ 0#16 1 0x1042#16).raise .streamExhaustion 7#16 none) := by decide

theorem test_cause_codes : (RunStatus.running.code, Cause.streamExhaustion.code, Cause.unsupportedOpcode.code,
    Cause.invalidRegister.code) = (0, 1, 2, 3) := by decide

theorem test_register_out_of_range : regOfIndex 7 = .ok .r7 ∧ regOfIndex 8 = .error .invalidRegister := by decide

/-! ### Memory, placing a word, and the host -/

theorem test_memory_canonical : ((State.reset.memWrite 5#16 7#16).memWrite 3#16 9#16).mem = [(3, 9#16), (5, 7#16)] ∧
    ((State.reset.memWrite 5#16 7#16).memWrite 5#16 0#16).mem = [] := by decide

theorem test_withFetchWord : after (State.reset.withFetchWord 16 0x103F) .r0 = some (0xFFFF#16, .negative, 1#16) ∧
    look (fun t => t.run) (step (State.reset.withFetchWord 16 0xD000)) =
      some (.faulted .unsupportedOpcode 0#16 (some 0xD000#16)) := by decide

/-- The launch of P6: three words, the host's bound of two, then one STEP. -/
theorem test_launch : look (fun t => (t.reg .r0, t.pc, t.memRead 2#16, t.run))
    (step (State.launch (streamWords 0 [0x1025#16, 0x1025#16, 0x1025#16] ++ [.streamLen 2]))) =
    some (5#16, 1#16, 0x1025#16, .running) := by decide

theorem test_session_refuses_late_write :
    ((Session.mk State.reset .stepping none).transact (.preload (.reg .r0 1#16)) : Host.Outcome Session Fault Refusal) =
    .refused .hostWriteDuringRun := rfl

theorem test_parameters : (Config.xlen, Config.aw, Config.nreg, Config.regIdW) = (16, 16, 2 ^ 3, 3) ∧
    Config.memWords = 2 ^ Config.aw ∧ (Config.opcW, Config.immW, Config.ncc, Config.ilen, Config.nopcDefined) = (4, 5, 3, 1, 1) := by decide

/-! ### Witnesses: a concrete case that meets every hypothesis of the statement named -/

theorem witness_ExtractFieldIsShiftAndMask : ∃ (_hl : (0 : Nat) ≤ 15) (_hh : (15 : Nat) ≤ 15), (extractField 0xA5C3#16 15 0).toNat = 0xA5C3 :=
  ⟨by decide, by decide, by decide⟩

theorem witness_BitAtIsOneBitField : ∃ (hi : (15 : Nat) ≤ 15), (bitAt 0x8000#16 15 hi).toNat = 1 := ⟨by decide, by decide⟩

theorem witness_BitWidthIsLeastWidth : 1 ≤ (1#16).toNat ∧ bitWidth 1#16 = 1 ∧ 1 ≤ (0xFFFF#16).toNat ∧ bitWidth 0xFFFF#16 = 16 := by decide

/-- Both clauses at their boundary: 0b01111 and 0b10000 at width 5, and the widths 1 and 16. -/
theorem witness_SextExtendsDeclaredWidth :
    (1 ≤ 5 ∧ 5 ≤ 16 ∧ (0x0F#16).toNat % 2 ^ 5 < 2 ^ (5 - 1)) ∧ (1 ≤ 5 ∧ 5 ≤ 16 ∧ 2 ^ (5 - 1) ≤ (0x10#16).toNat % 2 ^ 5) ∧
    (1 ≤ 1 ∧ 1 ≤ 16 ∧ 2 ^ (1 - 1) ≤ (1#16).toNat % 2 ^ 1) ∧ (1 ≤ 16 ∧ 16 ≤ 16 ∧ 2 ^ (16 - 1) ≤ (0x8000#16).toNat % 2 ^ 16) := by decide

theorem witness_RegisterIdentifiersAreFieldValues : (7 < 8 ∧ regOfIndex 7 = .ok .r7) ∧ (8 ≤ 8 ∧ regOfIndex 8 = .error .invalidRegister) := by decide

theorem witness_RegisterReadsLastWrite : RegId.r1 ≠ RegId.r0 ∧ ((State.reset.setReg .r0 5#16).setReg .r1 7#16).reg .r0 = 5#16 := by decide

theorem witness_MemoryWriteChangesOneWord : (at_ 0xFFFF#16 0 0x1042#16).mem.wf ∧ (0#16 : Word) ≠ 0xFFFF#16 := by decide

theorem witness_EqualReadsMeanEqualMemories : ∃ m n : Memory, m.wf ∧ n.wf ∧ ∀ a : Word, m.read a = n.read a :=
  ⟨[(3, 9#16), (65535, 7#16)], [(3, 9#16), (65535, 7#16)], by decide, by decide, fun _ => rfl⟩

theorem witness_RegisterFormDecodesByMask : decode 0x1FDF#16 = .addReg .r7 .r7 .r7 := by decide

theorem witness_ImmediateFormDecodesByMask : decode 0x1FFF#16 = .addImm .r7 .r7 0b11111#5 := by decide

/-- Both clauses at their boundary: fields 15 and 16. -/
theorem witness_ImmediateOperandIsSextFive : (decode 0x14AF#16 = .addImm .r2 .r2 0b01111#5 ∧ (0x14AF#16).toNat % 32 ≤ 15) ∧
    (decode 0x14B0#16 = .addImm .r2 .r2 0b10000#5 ∧ 16 ≤ (0x14B0#16).toNat % 32) := by decide

theorem witness_RegisterFormIgnoresBitsFourAndThree : isAddReg 0x1B87#16 ∧ 0x1B87#16 &&& 0xFFE7#16 = 0x1B9F#16 &&& 0xFFE7#16 := by
  unfold isAddReg
  decide

theorem witness_EveryWordIsInOneTableRow : OpcodeRow.mk "ADD" 0x1020#16 0xF020#16 ∈ opcodeTable := by decide

theorem witness_DecodeOfEncodeIsTheInstruction : (Instr.addImm .r7 .r7 0b10000#5).wf = true ∧ (Instr.unsupported1111 0xFFF#12).wf = true := by decide

theorem witness_EncodeOfDecodeIsTheCanonicalWord : isAddReg 0x1018#16 ∧ ¬ isAddReg 0x1020#16 := by
  unfold isAddReg
  decide

theorem witness_AssemblerAcceptsExactlyWellFormedText : (RawInstr.addImm 7 0 (-16)).assemble = some (.addImm .r7 .r0 0b10000#5) ∧
    (RawInstr.addImm 7 0 (-16)).wf = true ∧ (Instr.addImm .r7 .r0 0b10000#5).raw = .addImm 7 0 (-16) := by decide

theorem witness_AddFormsWriteOnlySumAndCondition : RegId.r1 ≠ RegId.r0 ∧ (0x1FFF#16).toNat / 4096 = 1 := by decide

/-- S1's state: the pc inside the stream and the document's word under it. -/
theorem witness_RegisterFormStep : (at_ 0#16 1 0x1042#16).canFetch ∧ isAddReg ((at_ 0#16 1 0x1042#16).memRead 0#16) ∧
    RegId.r0.index = ((at_ 0#16 1 0x1042#16).memRead 0#16).toNat / 512 % 8 ∧
    RegId.r1.index = ((at_ 0#16 1 0x1042#16).memRead 0#16).toNat / 64 % 8 ∧
    RegId.r2.index = ((at_ 0#16 1 0x1042#16).memRead 0#16).toNat % 8 := by
  unfold State.canFetch isAddReg
  decide

/-- F3's state: the last fetchable address. -/
theorem witness_ImmediateFormStep : (at_ 0xFFFE#16 65535 0x1021#16).canFetch ∧ isAddImm ((at_ 0xFFFE#16 65535 0x1021#16).memRead 0xFFFE#16) ∧
    RegId.r0.index = ((at_ 0xFFFE#16 65535 0x1021#16).memRead 0xFFFE#16).toNat / 512 % 8 ∧
    RegId.r0.index = ((at_ 0xFFFE#16 65535 0x1021#16).memRead 0xFFFE#16).toNat / 64 % 8 := by
  unfold State.canFetch isAddImm
  decide

theorem witness_SetCcClassifiesWrittenResult :
    (∃ t, exec (.addReg .r0 .r1 .r2) State.reset = .next t ∧ t.cc = .zero) ∧
    (∃ t, exec (.addImm .r0 .r1 0b11111#5) State.reset = .next t ∧ t.cc = .negative) :=
  ⟨⟨_, rfl, by decide⟩, ⟨_, rfl, by decide⟩⟩

theorem witness_AdditionWrapsOnBothReadings : (0b00000#5).toNat = 0 ∧ (0b11111#5).toNat = 31 := by decide

theorem witness_UnsupportedOpcodeStep : (at_ 2#16 3 0xF025#16).canFetch ∧ ((at_ 2#16 3 0xF025#16).memRead 2#16).toNat / 4096 ≠ 1 := by
  unfold State.canFetch
  decide

/-- Both hypotheses at the boundary: the pc equal to the bound, on a stream of three and on the empty one. -/
theorem witness_StreamExhaustionStep : ((at_ 3#16 3 0#16).run = .running ∧ (at_ 3#16 3 0#16).streamLen.val ≤ (at_ 3#16 3 0#16).pc.toNat) ∧
    (State.reset.run = .running ∧ State.reset.streamLen.val ≤ State.reset.pc.toNat) := by decide

theorem witness_FaultedMachineStays : (State.reset.raise .streamExhaustion 0#16 none).run ≠ .running := by decide

theorem witness_FirstFaultIsKept : ∃ t, runSteps 1 State.reset = .next t ∧ t.run ≠ .running := ⟨_, rfl, by decide⟩

theorem witness_InvalidRegisterIsNeverRaised :
    (∀ a w, State.reset.run ≠ .faulted .invalidRegister a w) ∧ (∃ t, runSteps 1 State.reset = .next t) ∧ 8 ≤ 8 :=
  ⟨(fun _ _ h => nomatch h), ⟨_, rfl⟩, by decide⟩

/-- Both clauses: an ADD leaves the machine RUNNING, an unsupported word does not. -/
theorem witness_StepRunsTheDecodedInstruction :
    ((at_ 0#16 1 0x1042#16).canFetch ∧ decode ((at_ 0#16 1 0x1042#16).memRead 0#16) = .addReg .r0 .r1 .r2 ∧
      ∃ t, exec (.addReg .r0 .r1 .r2) (at_ 0#16 1 0x1042#16) = .next t ∧ t.run = .running) ∧
    ((at_ 0#16 1 0xF025#16).canFetch ∧ decode ((at_ 0#16 1 0xF025#16).memRead 0#16) = .unsupported1111 0x025#12 ∧
      ∃ t, exec (.unsupported1111 0x025#12) (at_ 0#16 1 0xF025#16) = .next t ∧ t.run ≠ .running) := by
  refine ⟨⟨?_, by decide, _, rfl, by decide⟩, ⟨?_, by decide, _, rfl, by decide⟩⟩ <;> (unfold State.canFetch; decide)

/-- Both clauses: a completed step, and one that ended in a fault. -/
theorem witness_PcAdvancesByOneOrStays : (∃ t, Completes (at_ 0xFFFE#16 65535 0x1021#16) t) ∧
    (∃ t, step State.reset = .next t ∧ t.run ≠ .running) := ⟨⟨_, rfl, by decide⟩, ⟨_, rfl, by decide⟩⟩

theorem witness_OnlyAddChangesRegistersAndCondition :
    ∃ t, step (at_ 0#16 1 0x103F#16) = .next t ∧ t.reg .r0 ≠ (at_ 0#16 1 0x103F#16).reg .r0 ∧ t.cc ≠ (at_ 0#16 1 0x103F#16).cc :=
  ⟨_, rfl, by decide, by decide⟩

theorem witness_MemoryIsConstantDuringARun : ∃ t, runSteps 2 (at_ 0#16 1 0x103F#16) = .next t := ⟨_, rfl⟩

theorem witness_StepReadsOneWordAndNoCondition :
    (∃ t, step (at_ 0#16 1 0x103F#16) = .next t ∧ t.run = .running) ∧
    (∃ t, step (at_ 0#16 1 0xF025#16) = .next t ∧ t.run ≠ .running) ∧
    Memory.read [(0, 0x103F#16), (1, 0xF025#16)] 0#16 = (at_ 0#16 1 0x103F#16).mem.read 0#16 :=
  ⟨⟨_, rfl, by decide⟩, ⟨_, rfl, by decide⟩, by decide⟩

theorem witness_FetchSeesTheLatestWrite : (at_ 0#16 1 0x103F#16).mem.wf ∧ (at_ 0#16 1 0x103F#16).canFetch := by
  unfold State.canFetch
  decide

/-- The reset state with a record, and a state at the end of its stream: both meet the invariant and both step. -/
theorem witness_StepKeepsInvariant : (at_ 0#16 1 0x103F#16).Inv ∧ (∃ t, step (at_ 0#16 1 0x103F#16) = .next t) ∧
    (at_ 1#16 1 0#16).Inv ∧ (∃ t, step (at_ 1#16 1 0#16) = .next t) :=
  ⟨⟨by decide, by decide, trivial⟩, ⟨_, rfl⟩, ⟨by decide, by decide, trivial⟩, ⟨_, rfl⟩⟩

/-- A stream of one ADD, and the bounds 1 and 2 of the two clauses. -/
theorem witness_StreamOfAddsRunsToItsEnd : (at_ 0#16 1 0x103F#16).run = .running ∧ (at_ 0#16 1 0x103F#16).pc = 0#16 ∧
    (∀ a : Word, a.toNat < (at_ 0#16 1 0x103F#16).streamLen.val → ((at_ 0#16 1 0x103F#16).memRead a).toNat / 4096 = 1) ∧
    1 ≤ (at_ 0#16 1 0x103F#16).streamLen.val ∧ (at_ 0#16 1 0x103F#16).streamLen.val < 2 := by
  refine ⟨by decide, by decide, fun a ha => ?_, by decide, by decide⟩
  have h1 : (at_ 0#16 1 0x103F#16).streamLen.val = 1 := rfl
  have h : a = 0#16 := BitVec.eq_of_toNat_eq (by rw [h1] at ha; simp; omega)
  subst h
  decide

theorem witness_EveryRunEndsInAFault : (at_ 0#16 1 0x103F#16).streamLen.val - (at_ 0#16 1 0x103F#16).pc.toNat < 2 ∧
    (at_ 1#16 1 0#16).streamLen.val - (at_ 1#16 1 0#16).pc.toNat < 1 := by decide

/-- Each clause: a step, a write while loading, a stream that loads, a run begun, and a step that changes the machine. -/
theorem witness_HostWritesOnlyBeforeTheFirstStep :
    (∃ t, step Session.fresh.state = .next t) ∧ Session.fresh.phase = .loading ∧
    (∃ t, Session.fresh.state.loadStream [0x1042#16] = some t) ∧
    (∃ se s' : Session, se.phase = .stepping ∧ se.transact .step = .next s' ∧ s'.state ≠ se.state) :=
  ⟨⟨_, rfl⟩, rfl, ⟨_, rfl⟩, Session.mk State.reset .stepping none, _, rfl, rfl, by decide⟩

/-- A stream of 65,536 words is refused. -/
theorem witness_streamTooLong : State.reset.loadStream (List.replicate 65536 0x1042#16) = none := by
  rw [State.loadStream, dif_neg (by rw [List.length_replicate]; decide)]

theorem witness_LaunchStateKeepsPcCcAndRun : (∀ v, Preload.reg .r0 v ∉ [Preload.reg .r1 5#16, Preload.word 0#16 0x1042#16]) ∧
    (∀ v, Preload.word 1#16 v ∉ [Preload.reg .r1 5#16, Preload.word 0#16 0x1042#16]) := by
  constructor <;> intro v <;> simp

/-- Both length clauses, a word of the stream, and an address past it. -/
theorem witness_LoadedStreamStandsFromAddressZero : State.reset.mem.wf ∧ [0x1042#16].length < 65536 ∧
    [0x1042#16][0]? = some 0x1042#16 ∧ [0x1042#16].length ≤ (1#16).toNat ∧ 65536 ≤ (List.replicate 65536 0x1042#16).length :=
  ⟨by decide, by decide, by decide, by decide, by rw [List.length_replicate]⟩

theorem witness_InspectReadsAndChangesNothing : Query.reg .r3 = .reg .r3 ∧ Query.word 0xFFFF#16 = .word 0xFFFF#16 := ⟨rfl, rfl⟩

theorem witness_ShownConditionCodeIsOneHot : CondCode.zero.oneHot = CondCode.zero.oneHot := rfl

/-- The highest pc that can be fetched from. -/
theorem witness_PlacedWordIsRunNext : (at_ 0xFFFE#16 3 0#16).mem.wf ∧ (at_ 0xFFFE#16 3 0#16).pc.toNat < 65535 := by decide

end Sys2Proof.Tests
end

section
/-! PROOFS. The register identifiers and the register file (10_state.md R22, R23). -/

namespace Sys2Proof.Machine

/-- R22: the field value of a number in range names the register of that number. -/
theorem regOfIndex_of_lt {n : Nat} (h : n < 8) : regOfIndex n = .ok (RegId.ofIndex n) := if_pos h

/-- R22, R113: a number out of range names no register, and the failure is the named one. -/
theorem regOfIndex_of_le {n : Nat} (h : 8 ≤ n) : regOfIndex n = .error .invalidRegister := if_neg (Nat.not_lt.mpr h)

/-- R23: a register write leaves every memory word as it was. -/
@[simp] theorem State.memRead_setReg (s : State) (i : RegId) (v a : Word) : (s.setReg i v).memRead a = s.memRead a := rfl

/-- R37: every register is zero after reset, whatever the stream's length. -/
@[simp] theorem State.reg_resetWith (n : Config.StreamLen) (i : RegId) : (State.resetWith n).reg i = 0#16 :=
  RegFile.get_zero i

/-- Settles O6: the fields name registers through `RegId.toField`, the inverse of `RegId.ofField` on both sides, and a
number in range is the number of the register it names. -/
theorem registerIdentifiersAreFieldValues : Obligations.RegisterIdentifiersAreFieldValues := by
  refine ⟨by decide, fun r => ?_, fun n hn => ?_, fun n hn => ?_⟩
  · have unique : ∀ g : BitVec 3, RegId.ofField g = r → g = r.toField := by
      rintro g rfl
      exact (RegId.toField_ofField g).symm
    exact ⟨r.toField, RegId.ofField_toField r, unique⟩
  · exact ⟨RegId.ofIndex n, regOfIndex_of_lt hn, RegId.index_ofIndex hn⟩
  · exact ⟨.invalidRegister, regOfIndex_of_le hn⟩

/-- Settles O7: `State.reg_setReg` gives the written register and the others, and a register write is an update of the
register file alone. -/
theorem registerReadsLastWrite : Obligations.RegisterReadsLastWrite := by
  refine ⟨fun s i v => ?_, State.reg_resetWith⟩
  have written : (s.setReg i v).reg i = v := by simp
  have others : ∀ j, j ≠ i → (s.setReg i v).reg j = s.reg j := fun j hj => by simp [hj]
  exact ⟨written, others, s.setReg_pc i v, s.setReg_cc i v, s.memRead_setReg i v, s.setReg_run i v⟩

end Sys2Proof.Machine
end

section
/-! PROOFS. The two word forms of ADD (30_encoding.md R63, R64, R67, R68): what each mask keeps of a word, which words decode to
each form and with which operands, and the value of the immediate. -/

namespace Sys2Proof.Machine

open Sys2Proof.Reference

/-! ### What a mask keeps of a word -/

/-- A mask acts on the part from bit `k` up and on the part below it separately. -/
theorem nat_and_eq_parts (k x m : Nat) : x &&& m = (x / 2 ^ k &&& m / 2 ^ k) * 2 ^ k + (x % 2 ^ k &&& m % 2 ^ k) := by
  rw [← Nat.and_div_two_pow, ← Nat.and_mod_two_pow, Nat.div_add_mod']

/-- The mask of R63 and R64 keeps the opcode field and the mode bit. -/
theorem toNat_and_formMask (w : Word) :
    (w &&& 0xF020#16).toNat = w.toNat / 4096 * 4096 + w.toNat / 32 % 2 * 32 := by
  have hw := w.isLt
  have opcode : w.toNat / 4096 &&& 15 = w.toNat / 4096 % 16 := Nat.and_two_pow_sub_one_eq_mod _ 4
  have mode : w.toNat % 4096 / 32 &&& 1 = w.toNat % 4096 / 32 % 2 := Nat.and_one_is_mod _
  rw [BitVec.toNat_and, nat_and_eq_parts 12, nat_and_eq_parts 5 (w.toNat % 2 ^ 12)]
  norm_num [opcode, mode]
  omega

/-- The mask of R68 drops bits 4 and 3 and keeps every other bit. -/
theorem toNat_and_dropBitsFourAndThree (w : Word) :
    (w &&& 0xFFE7#16).toNat = w.toNat / 32 * 32 + w.toNat % 8 := by
  have hw := w.isLt
  have above : w.toNat / 32 &&& 2047 = w.toNat / 32 % 2048 := Nat.and_two_pow_sub_one_eq_mod _ 11
  have below : w.toNat % 8 &&& 7 = w.toNat % 8 % 8 := Nat.and_two_pow_sub_one_eq_mod _ 3
  rw [BitVec.toNat_and, nat_and_eq_parts 5, nat_and_eq_parts 3 (w.toNat % 2 ^ 5)]
  norm_num [above, below]
  omega

/-- The mask of bits 4 and 3 keeps that two-bit field. -/
theorem toNat_and_bitsFourAndThree (w : Word) : (w &&& 0x0018#16).toNat = w.toNat / 8 % 4 * 8 := by
  have field : w.toNat / 8 &&& 3 = w.toNat / 8 % 4 := Nat.and_two_pow_sub_one_eq_mod _ 2
  rw [BitVec.toNat_and, nat_and_eq_parts 3]
  norm_num [field]

/-- R68: the encoder emits bits 4 and 3 of the register form as 00. -/
theorem encodeAddReg_and_bitsFourAndThree (d a b : RegId) : encodeAddReg d a b &&& 0x0018#16 = 0#16 := by
  have hb := b.index_lt
  apply BitVec.eq_of_toNat_eq
  rw [toNat_and_bitsFourAndThree, encodeAddReg_toNat, BitVec.toNat_ofNat]
  omega

/-! ### Which words are each form -/

/-- R63 by fields: opcode 0b0001 and mode bit 0. -/
theorem isAddReg_iff (w : Word) : isAddReg w ↔ w.toNat / 4096 = 1 ∧ w.toNat / 32 % 2 = 0 := by
  rw [isAddReg, ← BitVec.toNat_inj, toNat_and_formMask, BitVec.toNat_ofNat]
  omega

/-- R64 by fields: opcode 0b0001 and mode bit 1. -/
theorem isAddImm_iff (w : Word) : isAddImm w ↔ w.toNat / 4096 = 1 ∧ w.toNat / 32 % 2 = 1 := by
  rw [isAddImm, ← BitVec.toNat_inj, toNat_and_formMask, BitVec.toNat_ofNat]
  omega

/-- R22: a field names the register whose number it holds. -/
theorem ofField_eq_iff (f : BitVec 3) (r : RegId) : RegId.ofField f = r ↔ r.index = f.toNat := by
  rw [← RegId.index_ofField]
  exact ⟨fun h => h ▸ rfl, fun h => RegId.index_inj h.symm⟩

/-- R69: a row without a table entry is no ADD of either form. -/
theorem unsupportedInstr_ne (op : BitVec 4) (low : BitVec 12) :
    (∀ d a b, unsupportedInstr op low ≠ .addReg d a b) ∧ ∀ d a f, unsupportedInstr op low ≠ .addImm d a f := by
  unfold unsupportedInstr
  split <;> simp

/-- R63: exactly the words of the register form decode to it, with the register numbers in bits 11..9, 8..6 and 2..0. -/
theorem decode_eq_addReg_iff (w : Word) (d a b : RegId) :
    decode w = .addReg d a b ↔
      isAddReg w ∧ d.index = w.toNat / 512 % 8 ∧ a.index = w.toNat / 64 % 8 ∧ b.index = w.toNat % 8 := by
  rw [isAddReg_iff]
  by_cases ho : w.toNat / 4096 = 1
  · rcases Nat.mod_two_eq_zero_or_one (w.toNat / 32) with hm | hm
    · simp [decode_addReg ho hm, ofField_eq_iff, extractField_toNat, ho, hm]
    · simp [decode_addImm ho hm, hm]
  · simp [decode_unsupported ho, (unsupportedInstr_ne _ _).1, ho]

/-- R64: exactly the words of the immediate form decode to it, with the register numbers in bits 11..9 and 8..6 and the
immediate in bits 4..0. -/
theorem decode_eq_addImm_iff (w : Word) (d a : RegId) (f : BitVec 5) :
    decode w = .addImm d a f ↔
      isAddImm w ∧ d.index = w.toNat / 512 % 8 ∧ a.index = w.toNat / 64 % 8 ∧ f.toNat = w.toNat % 32 := by
  rw [isAddImm_iff]
  by_cases ho : w.toNat / 4096 = 1
  · rcases Nat.mod_two_eq_zero_or_one (w.toNat / 32) with hm | hm
    · simp [decode_addReg ho hm, hm]
    · simp [decode_addImm ho hm, ofField_eq_iff, extractField_toNat, ← BitVec.toNat_inj, eq_comm (b := f.toNat), ho, hm]
  · simp [decode_unsupported ho, (unsupportedInstr_ne _ _).2, ho]

/-- R63: a word of the register form decodes to it. -/
theorem exists_decode_of_isAddReg {w : Word} (h : isAddReg w) : ∃ d a b, decode w = .addReg d a b :=
  have ⟨ho, hm⟩ := (isAddReg_iff w).mp h
  ⟨_, _, _, decode_addReg ho hm⟩

/-- R64: a word of the immediate form decodes to it. -/
theorem exists_decode_of_isAddImm {w : Word} (h : isAddImm w) : ∃ d a f, decode w = .addImm d a f :=
  have ⟨ho, hm⟩ := (isAddImm_iff w).mp h
  ⟨_, _, _, decode_addImm ho hm⟩

/-- Settles O10: the mask keeps the opcode field and the mode bit, which are what the decoder tests. -/
theorem registerFormDecodesByMask : Obligations.RegisterFormDecodesByMask := by
  refine ⟨fun w => ⟨exists_decode_of_isAddReg, ?_⟩, fun w d a b h => ?_, by decide⟩
  · rintro ⟨d, a, b, h⟩
    exact ((decode_eq_addReg_iff w d a b).mp h).1
  · exact ((decode_eq_addReg_iff w d a b).mp h).2

/-- Settles O11: the mask keeps the opcode field and the mode bit, which are what the decoder tests. -/
theorem immediateFormDecodesByMask : Obligations.ImmediateFormDecodesByMask := by
  refine ⟨fun w => ⟨exists_decode_of_isAddImm, ?_⟩, fun w d a f h => ?_⟩
  · rintro ⟨d, a, f, h⟩
    exact ((decode_eq_addImm_iff w d a f).mp h).1
  · exact ((decode_eq_addImm_iff w d a f).mp h).2

/-! ### The immediate -/

/-- R67: the immediate operand is its five bits, sign-extended. -/
theorem immediate_eq_signExtend (f : BitVec 5) : immediate f = f.signExtend 16 := by
  rw [immediate, sext, BitVec.setWidth_setWidth_of_le f (by decide), BitVec.setWidth_eq]

/-- R67: sign extension keeps the signed value. -/
theorem toInt_immediate (f : BitVec 5) : (immediate f).toInt = f.toInt := by
  rw [immediate_eq_signExtend, BitVec.toInt_signExtend_of_le (by decide)]

/-- Settles O12: the field is the word's low five bits, `immediate_toNat` gives the operand on both sides of the sign bit, and
sign extension keeps the signed value, which five bits bound. -/
theorem immediateOperandIsSextFive : Obligations.ImmediateOperandIsSextFive := by
  intro w d a f h
  obtain ⟨-, -, -, hf⟩ := (decode_eq_addImm_iff w d a f).mp h
  have hlo := f.le_toInt
  have hhi := f.toInt_lt
  rw [immediate_toNat, toInt_immediate, hf]
  refine ⟨fun hpos => if_pos (by omega), fun hneg => ?_, rfl, by omega, by omega⟩
  rw [if_neg (by omega)]
  omega

/-! ### Bits 4 and 3 of the register form -/

/-- R68: words that differ only in bits 4 and 3 are register form together, and then one instruction. -/
theorem decode_eq_of_differ_in_bitsFourAndThree {w v : Word} (hw : isAddReg w)
    (hv : w &&& 0xFFE7#16 = v &&& 0xFFE7#16) : decode v = decode w := by
  rw [← BitVec.toNat_inj, toNat_and_dropBitsFourAndThree, toNat_and_dropBitsFourAndThree] at hv
  have upper : v.toNat / 32 = w.toNat / 32 := by omega
  have low : v.toNat % 8 = w.toNat % 8 := by omega
  have above (n : Nat) : v.toNat / (32 * n) = w.toNat / (32 * n) := by
    rw [← Nat.div_div_eq_div_mul, ← Nat.div_div_eq_div_mul, upper]
  have opcode : v.toNat / 4096 = w.toNat / 4096 := above 128
  have dr : v.toNat / 512 = w.toNat / 512 := above 16
  have sr1 : v.toNat / 64 = w.toNat / 64 := above 2
  obtain ⟨d, a, b, hd⟩ := exists_decode_of_isAddReg hw
  rw [hd, decode_eq_addReg_iff, isAddReg_iff, opcode, upper, dr, sr1, low, ← isAddReg_iff, ← decode_eq_addReg_iff, hd]

/-- R106: a register-form ADD always answers a next state, and keeps the run status. -/
theorem exec_addReg_completes (d a b : RegId) (s : State) : ∃ t, exec (.addReg d a b) s = .next t ∧ t.run = s.run :=
  ⟨s.writeResult d (s.reg a + s.reg b), rfl, s.writeResult_run d _⟩

/-- Settles O13: no field of the register form reads bits 4 and 3, so the words decode alike; the rest is what any
register-form ADD does. -/
theorem registerFormIgnoresBitsFourAndThree : Obligations.RegisterFormIgnoresBitsFourAndThree := by
  intro w v hw hv
  have same : decode v = decode w := decode_eq_of_differ_in_bitsFourAndThree hw hv
  obtain ⟨d, a, b, hd⟩ := exists_decode_of_isAddReg hw
  rw [same, hd]
  exact ⟨rfl, ⟨d, a, b, rfl⟩, fun s => rfl, exec_addReg_completes d a b, encodeAddReg_and_bitsFourAndThree d a b⟩

end Sys2Proof.Machine
end

section
/-! PROOFS. The sign test and the width of a word (40_bitfield_extractor.md R82, R83). -/

namespace Sys2Proof

/-- R83: the convention at zero. -/
theorem bitWidth_zero : bitWidth 0#16 = 1 := if_pos rfl

/-- R83: a word that is not zero has one bit more than the place of its highest set bit. -/
theorem bitWidth_of_ne_zero {v : Word} (h : v ≠ 0#16) : bitWidth v = Nat.log2 v.toNat + 1 := if_neg h

/-- Settles O4: `Nat.log2` is the place of the highest set bit, so the value lies between that power of two and the next, and
a word's highest place is below 16. -/
theorem bitWidthIsLeastWidth : Obligations.BitWidthIsLeastWidth := by
  refine ⟨bitWidth_zero, fun v hv => ?_⟩
  have nonzero : v.toNat ≠ 0 := by omega
  have place : Nat.log2 v.toNat < 16 := (Nat.log2_lt nonzero).mpr v.isLt
  have lower : 2 ^ Nat.log2 v.toNat ≤ v.toNat := Nat.log2_self_le nonzero
  have upper : v.toNat < 2 ^ (Nat.log2 v.toNat + 1) := Nat.lt_log2_self
  rw [bitWidth_of_ne_zero (BitVec.toNat_ne.mpr nonzero)]
  exact ⟨Nat.le_add_left 1 _, place, lower, upper⟩

/-- R82: the sign test is bit 15. -/
theorem isNegative_iff_bitAt (w : Word) : isNegative w = true ↔ (bitAt w 15).toNat = 1 := by
  rw [isNegative, beq_iff_eq, ← BitVec.toNat_inj, BitVec.toNat_ofNat]

/-- Settles O3: the sign test is bit 15 by definition, and bit 15 is set from 0x8000 up (`isNegative_iff`). -/
theorem isNegativeTestsBitFifteen : Obligations.IsNegativeTestsBitFifteen :=
  fun w => ⟨isNegative_iff_bitAt w, isNegative_iff w⟩

end Sys2Proof
end

section
/-! PROOFS. Arithmetic-add and the condition code (42_arithmetic_add.md R100 to R106): what `SetCC` says of a result, what
writing a sum leaves alone, and the STEP around an instruction that completes. -/

namespace Sys2Proof.Machine

open Sys2Proof.Reference

/-! ### The condition code -/

/-- R102: the code of a result says whether it is zero, has its sign bit set, or neither. -/
theorem classifies_ofResult (r : Word) : Classifies (CondCode.ofResult r) r := by
  have zero_iff : r = 0#16 ↔ r.toNat = 0 := by rw [← BitVec.toNat_inj, BitVec.toNat_ofNat]
  simp only [CondCode.ofResult, zero_iff, isNegative_iff]
  unfold Classifies
  split_ifs with zero negative
  · simp [zero]
  · simp only [true_iff, false_iff]
    omega
  · simp only [true_iff, false_iff]
    omega

/-- R102: a written result is classified in its register. -/
theorem classifies_writeResult (s : State) (d : RegId) (r : Word) :
    Classifies (s.writeResult d r).cc ((s.writeResult d r).reg d) := by
  simpa using classifies_ofResult r

/-! ### The two sums -/

/-- R105: a written result that is the sum modulo 65,536 makes of the state what an ADD does. -/
theorem writesSum_writeResult (s : State) (d : RegId) {r : Word} {sum : Nat} (h : r.toNat = sum % 65536) :
    WritesSum s (s.writeResult d r) d sum := by
  have written : ((s.writeResult d r).reg d).toNat = sum % 65536 := by simpa using h
  have others : ∀ j, j ≠ d → (s.writeResult d r).reg j = s.reg j := fun j hj => by simp [hj]
  have words : ∀ a, (s.writeResult d r).memRead a = s.memRead a := fun a => by simp [State.memRead]
  exact ⟨written, classifies_writeResult s d r, others, words, s.writeResult_mem d r, s.writeResult_run d r,
    s.writeResult_streamLen d r⟩

/-- R67, R84: the immediate operand is `sext_5` of its field. -/
theorem immediate_toNat_eq_sext5 (f : BitVec 5) : (immediate f).toNat = sext5 f.toNat := by
  rw [immediate_toNat, sext5, Nat.add_sub_assoc (by decide)]

/-- R100: the register form writes its sum. -/
theorem exec_addReg (d a b : RegId) (s : State) :
    exec (.addReg d a b) s = .next (s.writeResult d (s.reg a + s.reg b)) := rfl

/-- R101: the immediate form writes its sum. -/
theorem exec_addImm (d a : RegId) (f : BitVec 5) (s : State) :
    exec (.addImm d a f) s = .next (s.writeResult d (s.reg a + immediate f)) := rfl

/-- R100, R103: word addition is the integer sum modulo 65,536. -/
theorem writesSum_addReg (d a b : RegId) (s : State) :
    WritesSum s (s.writeResult d (s.reg a + s.reg b)) d ((s.reg a).toNat + (s.reg b).toNat) :=
  writesSum_writeResult s d (BitVec.toNat_add ..)

/-- R101, R103: as `writesSum_addReg`, with the immediate for the second source. -/
theorem writesSum_addImm (d a : RegId) (f : BitVec 5) (s : State) :
    WritesSum s (s.writeResult d (s.reg a + immediate f)) d ((s.reg a).toNat + sext5 f.toNat) :=
  writesSum_writeResult s d (by rw [BitVec.toNat_add, immediate_toNat_eq_sext5])

/-- R106: an immediate-form ADD always answers a next state, and keeps the run status. -/
theorem exec_addImm_completes (d a : RegId) (f : BitVec 5) (s : State) :
    ∃ t, exec (.addImm d a f) s = .next t ∧ t.run = s.run :=
  ⟨_, exec_addImm d a f s, s.writeResult_run d _⟩

/-- R106: every word whose opcode field is 0b0001 completes: it is one form or the other, by its mode bit. -/
theorem exec_decode_completes {w : Word} (ho : w.toNat / 4096 = 1) (s : State) :
    ∃ t, exec (decode w) s = .next t ∧ t.run = s.run := by
  rcases Nat.mod_two_eq_zero_or_one (w.toNat / 32) with hm | hm
  · rw [decode_addReg ho hm]
    exact exec_addReg_completes _ _ _ s
  · rw [decode_addImm ho hm]
    exact exec_addImm_completes _ _ _ s

/-- Settles O19: each form writes its sum as a result, which touches the destination and the condition code alone, and a word
with the opcode of ADD is one of the forms. -/
theorem addFormsWriteOnlySumAndCondition : Obligations.AddFormsWriteOnlySumAndCondition := by
  refine ⟨fun d a b s => ?_, fun d a f s => ?_, fun w s ho => exec_decode_completes ho s⟩
  · exact ⟨_, exec_addReg d a b s, s.writeResult_pc d _, writesSum_addReg d a b s⟩
  · exact ⟨_, exec_addImm d a f s, s.writeResult_pc d _, writesSum_addImm d a f s⟩

/-- Settles O22: `SetCC` is one write of the condition code (`State.applySetCC_eq`), of the value `classifies_ofResult` says,
and both forms write their destination through it. -/
theorem setCcClassifiesWrittenResult : Obligations.SetCcClassifiesWrittenResult := by
  refine ⟨fun s r => ?_, fun d a b s t ht => ?_, fun d a f s t ht => ?_⟩
  · rw [State.applySetCC_eq]
    exact ⟨classifies_ofResult r, rfl⟩
  · rw [exec_addReg, Host.Outcome.next.injEq] at ht
    exact ht ▸ classifies_writeResult s d _
  · rw [exec_addImm, Host.Outcome.next.injEq] at ht
    exact ht ▸ classifies_writeResult s d _

/-! ### The STEP of an ADD -/

/-- R25, R91: a fetchable address is below 0xFFFF, so the next pc does not wrap. -/
theorem toNat_pc_add_one_of_canFetch {s : State} (h : s.canFetch) : (s.pc + 1#16).toNat = s.pc.toNat + 1 := by
  have below : s.pc.toNat < s.streamLen.val := h.2
  have bound : s.streamLen.val < 65536 := s.streamLen.isLt
  rw [BitVec.toNat_add, BitVec.toNat_ofNat]
  omega

/-- R105: the advance of the pc is no part of what an ADD writes. -/
theorem writesSum_setPc {s t : State} {d : RegId} {sum : Nat} (h : WritesSum s t d sum) (p : Word) :
    WritesSum s (t.setPc p) d sum := h

/-- R105: an ADD keeps the run status. -/
theorem run_eq_of_writesSum {s t : State} {d : RegId} {sum : Nat} (h : WritesSum s t d sum) : t.run = s.run := by
  obtain ⟨-, -, -, -, -, run, -⟩ := h
  exact run

/-- R94: the STEP of an instruction that writes a sum commits the next pc with it. -/
theorem step_of_writesSum {s t : State} {d : RegId} {sum : Nat} (hf : s.canFetch)
    (he : exec (decode (s.memRead s.pc)) s = .next t) (h : WritesSum s t d sum) :
    ∃ u, step s = .next u ∧ u.pc.toNat = s.pc.toNat + 1 ∧ WritesSum s u d sum := by
  have running : t.run = .running := (run_eq_of_writesSum h).trans hf.1
  have stepped : step s = .next (t.setPc (s.pc + 1#16)) := by
    rw [step_of_canFetch hf, he, commit, if_pos running]
  exact ⟨_, stepped, toNat_pc_add_one_of_canFetch hf, writesSum_setPc h _⟩

/-- Settles O20: the word decodes to the register form with the operands its fields name, and its STEP commits the sum. -/
theorem registerFormStep : Obligations.RegisterFormStep := by
  intro s d a b hf hw hd ha hb
  have decoded : decode (s.memRead s.pc) = .addReg d a b := (decode_eq_addReg_iff _ d a b).mpr ⟨hw, hd, ha, hb⟩
  exact step_of_writesSum hf (decoded ▸ exec_addReg d a b s) (writesSum_addReg d a b s)

/-- Settles O21: the word decodes to the immediate form with the operands its fields name, and its STEP commits the sum. -/
theorem immediateFormStep : Obligations.ImmediateFormStep := by
  intro s d a hf hw hd ha
  have field : (BitVec.ofNat 5 (s.memRead s.pc).toNat).toNat = (s.memRead s.pc).toNat % 32 := BitVec.toNat_ofNat ..
  have decoded := (decode_eq_addImm_iff (s.memRead s.pc) d a _).mpr ⟨hw, hd, ha, field⟩
  rw [← field]
  exact step_of_writesSum hf (decoded ▸ exec_addImm d a _ s) (writesSum_addImm d a _ s)

end Sys2Proof.Machine
end

section
/-! PROOFS. Decoder and encoder against each other (30_encoding.md sections 1 to 4): every instruction is read back from its word,
every word from its instruction, each word lies in one row of the opcode table, and the written form is assembled exactly. -/

namespace Sys2Proof.Machine

open Sys2Proof.Reference

/-- The three kinds of instruction: the two forms of ADD, and a row without a table entry, by its opcode. -/
theorem instr_induction {P : Instr → Prop} (addReg : ∀ d a b, P (.addReg d a b)) (addImm : ∀ d a f, P (.addImm d a f))
    (unsupported : ∀ op low, op ≠ 0b0001#4 → P (unsupportedInstr op low)) (i : Instr) : P i := by
  cases i with
  | addReg d a b => exact addReg d a b
  | addImm d a f => exact addImm d a f
  | unsupported0000 low => exact unsupported 0b0000#4 low (by decide)
  | unsupported0010 low => exact unsupported 0b0010#4 low (by decide)
  | unsupported0011 low => exact unsupported 0b0011#4 low (by decide)
  | unsupported0100 low => exact unsupported 0b0100#4 low (by decide)
  | unsupported0101 low => exact unsupported 0b0101#4 low (by decide)
  | unsupported0110 low => exact unsupported 0b0110#4 low (by decide)
  | unsupported0111 low => exact unsupported 0b0111#4 low (by decide)
  | unsupported1000 low => exact unsupported 0b1000#4 low (by decide)
  | unsupported1001 low => exact unsupported 0b1001#4 low (by decide)
  | unsupported1010 low => exact unsupported 0b1010#4 low (by decide)
  | unsupported1011 low => exact unsupported 0b1011#4 low (by decide)
  | unsupported1100 low => exact unsupported 0b1100#4 low (by decide)
  | unsupported1101 low => exact unsupported 0b1101#4 low (by decide)
  | unsupported1110 low => exact unsupported 0b1110#4 low (by decide)
  | unsupported1111 low => exact unsupported 0b1111#4 low (by decide)

/-- The three kinds of word: R63's, R64's, and those whose opcode field has no table entry (R69). -/
theorem word_cases (w : Word) : isAddReg w ∨ isAddImm w ∨ w.toNat / 4096 ≠ 1 := by
  rw [isAddReg_iff, isAddImm_iff]
  omega

/-! ### Decode of encode -/

/-- R63: the register form is read back: its word has the opcode, the mode bit and the three register numbers in their places. -/
theorem decode_encodeAddReg (d a b : RegId) : decode (encodeAddReg d a b) = .addReg d a b := by
  have hd := d.index_lt
  have ha := a.index_lt
  have hb := b.index_lt
  rw [decode_eq_addReg_iff, isAddReg_iff, encodeAddReg_toNat]
  omega

/-- R64: the immediate form is read back, as the register form is. -/
theorem decode_encodeAddImm (d a : RegId) (f : BitVec 5) : decode (encodeAddImm d a f) = .addImm d a f := by
  have hd := d.index_lt
  have ha := a.index_lt
  have hf := f.isLt
  rw [decode_eq_addImm_iff, isAddImm_iff, encodeAddImm_toNat]
  omega

/-- R69: a word without a table entry is read back as the row of its opcode, with its low twelve bits (log entry 12). -/
theorem decode_encodeOpcode {op : BitVec 4} (low : BitVec 12) (h : op ≠ 0b0001#4) :
    decode (encodeOpcode op low) = unsupportedInstr op low := by
  rw [decode, opcode_encodeOpcode, if_neg h, low_encodeOpcode]

/-- Every instruction is read back from its word. -/
theorem decode_encode (i : Instr) : decode (encode i) = i := by
  induction i using instr_induction with
  | addReg d a b => exact decode_encodeAddReg d a b
  | addImm d a f => exact decode_encodeAddImm d a f
  | unsupported op low h => rw [encode_unsupportedInstr low h, decode_encodeOpcode low h]

/-- Settles O15: each kind of instruction is read back from the fields its word was put together from; every instruction is
well-formed by its type, so the premise is not needed. -/
theorem decodeOfEncodeIsTheInstruction : Obligations.DecodeOfEncodeIsTheInstruction :=
  fun i _ => decode_encode i

/-! ### Encode of decode -/

/-- R68, R73: a register-form word is given back with bits 4 and 3 as 00. -/
theorem encode_decode_of_isAddReg {w : Word} (h : isAddReg w) : encode (decode w) = w &&& 0xFFE7#16 := by
  obtain ⟨d, a, b, decoded⟩ := exists_decode_of_isAddReg h
  obtain ⟨-, hd, ha, hb⟩ := (decode_eq_addReg_iff w d a b).mp decoded
  obtain ⟨opcode, mode⟩ := (isAddReg_iff w).mp h
  rw [decoded, encode, ← BitVec.toNat_inj, encodeAddReg_toNat, toNat_and_dropBitsFourAndThree]
  omega

/-- R64: an immediate-form word is given back. -/
theorem encode_decode_of_isAddImm {w : Word} (h : isAddImm w) : encode (decode w) = w := by
  obtain ⟨d, a, f, decoded⟩ := exists_decode_of_isAddImm h
  obtain ⟨-, hd, ha, hf⟩ := (decode_eq_addImm_iff w d a f).mp decoded
  obtain ⟨opcode, mode⟩ := (isAddImm_iff w).mp h
  rw [decoded, encode, ← BitVec.toNat_inj, encodeAddImm_toNat]
  omega

/-- R69: a word without a table entry is given back, its low twelve bits kept (log entry 12). -/
theorem encode_decode_of_opcode_ne_one {w : Word} (h : w.toNat / 4096 ≠ 1) : encode (decode w) = w := by
  rw [decode_unsupported h, encode_unsupportedInstr _ (opcode_ne_one h), encodeOpcode_fields]

/-- Every word but those of the register form is given back as it was. -/
theorem encode_decode_of_not_isAddReg {w : Word} (h : ¬ isAddReg w) : encode (decode w) = w := by
  rcases word_cases w with hr | hi | hu
  · exact absurd hr h
  · exact encode_decode_of_isAddImm hi
  · exact encode_decode_of_opcode_ne_one hu

/-- Settles O16: only the register form has bits that no operand holds. -/
theorem encodeOfDecodeIsTheCanonicalWord : Obligations.EncodeOfDecodeIsTheCanonicalWord :=
  fun _ => ⟨encode_decode_of_isAddReg, encode_decode_of_not_isAddReg⟩

/-! ### The opcode table -/

/-- R62, R69: the word of every instruction lies in the instruction's row, which the table holds. -/
theorem encodedInRow (i : Instr) : Laws.EncodedInRow.Statement i := by
  induction i using instr_induction with
  | addReg d a b => exact Laws.EncodedInRow.addReg d a b
  | addImm d a f => exact Laws.EncodedInRow.addImm d a f
  | unsupported op low h =>
    exact unsupported_cases (P := fun _ i => Laws.EncodedInRow.Statement i) low
      (Laws.EncodedInRow.unsupported0000 low) (Laws.EncodedInRow.unsupported0010 low)
      (Laws.EncodedInRow.unsupported0011 low) (Laws.EncodedInRow.unsupported0100 low)
      (Laws.EncodedInRow.unsupported0101 low) (Laws.EncodedInRow.unsupported0110 low)
      (Laws.EncodedInRow.unsupported0111 low) (Laws.EncodedInRow.unsupported1000 low)
      (Laws.EncodedInRow.unsupported1001 low) (Laws.EncodedInRow.unsupported1010 low)
      (Laws.EncodedInRow.unsupported1011 low) (Laws.EncodedInRow.unsupported1100 low)
      (Laws.EncodedInRow.unsupported1101 low) (Laws.EncodedInRow.unsupported1110 low)
      (Laws.EncodedInRow.unsupported1111 low) h

/-- The row of the decoded instruction holds the word, bits 4 and 3 of the register form included. -/
theorem row_decode_holds (w : Word) : (decode w).row.holds w = true := by
  by_cases h : isAddReg w
  · obtain ⟨d, a, b, decoded⟩ := exists_decode_of_isAddReg h
    rw [decoded]
    exact beq_iff_eq.mpr h
  · obtain ⟨holds, -⟩ := encodedInRow (decode w)
    rwa [encode_decode_of_not_isAddReg h] at holds

/-- Rows of the table whose patterns agree on the bits both masks keep are one row. -/
theorem eq_of_patterns_agree :
    ∀ r ∈ opcodeTable, ∀ q ∈ opcodeTable, r.pattern &&& q.mask = q.pattern &&& r.mask → r = q := by
  decide

/-- R62: the table is unambiguous: two rows that hold one word agree with it, and so with each other, on their common mask. -/
theorem eq_of_rows_hold {r q : OpcodeRow} {w : Word} (hr : r ∈ opcodeTable) (hq : q ∈ opcodeTable)
    (holdsR : r.holds w = true) (holdsQ : q.holds w = true) : r = q := by
  apply eq_of_patterns_agree r hr q hq
  rw [OpcodeRow.holds, beq_iff_eq] at holdsR holdsQ
  rw [← holdsR, ← holdsQ, BitVec.and_assoc, BitVec.and_assoc, BitVec.and_comm r.mask]

/-- Settles O14: the decoded instruction's row is in the table and holds the word, and no word is in two rows. -/
theorem everyWordIsInOneTableRow : Obligations.EveryWordIsInOneTableRow := by
  intro w
  obtain ⟨-, inTable⟩ := encodedInRow (decode w)
  refine ⟨inTable, fun r hr => ⟨fun holds => ?_, fun same => ?_⟩⟩
  · exact eq_of_rows_hold hr inTable holds (row_decode_holds w)
  · rw [same]
    exact row_decode_holds w

/-- Settles O17: closed words, evaluated. -/
theorem sampleWordsDecode : Obligations.SampleWordsDecode := by
  unfold Obligations.SampleWordsDecode
  decide

/-! ### The written form -/

/-- R72: a row without a table entry is written as its opcode and low twelve bits (log entry 22). -/
theorem raw_unsupportedInstr {op : BitVec 4} (low : BitVec 12) (h : op ≠ 0b0001#4) :
    (unsupportedInstr op low).raw = .unsupported op.toNat low.toNat :=
  unsupported_cases (P := fun op i => i.raw = .unsupported op.toNat low.toNat) low
    rfl rfl rfl rfl rfl rfl rfl rfl rfl rfl rfl rfl rfl rfl rfl h

/-- R72: every instruction is assembled from the way it is written. -/
theorem assemble_raw (i : Instr) : i.raw.assemble = some i := by
  have wellFormed : i.raw.wf = true := i.wf_all
  rw [RawInstr.assemble.eq_def, if_pos wellFormed]
  induction i using instr_induction with
  | addReg d a b => simp [Instr.raw]
  | addImm d a f => simp [Instr.raw]
  | unsupported op low h => simp [raw_unsupportedInstr low h]

/-- R113: ill-formed text is not assembled. -/
theorem wf_of_assemble {r : RawInstr} {i : Instr} (h : r.assemble = some i) : r.wf = true := by
  by_contra illFormed
  rw [RawInstr.assemble.eq_def, if_neg illFormed] at h
  exact nomatch h

/-- R72, R113: what is assembled is written as the text was: a number or immediate in range is neither clamped nor wrapped. -/
theorem raw_of_assemble {r : RawInstr} {i : Instr} (h : r.assemble = some i) : i.raw = r := by
  have hw := wf_of_assemble h
  rw [RawInstr.assemble.eq_def, if_pos hw] at h
  cases r with
  | addReg d a b =>
    simp only [RawInstr.wf, registerInRange, Bool.and_eq_true, decide_eq_true_eq] at hw
    obtain ⟨⟨hd, ha⟩, hb⟩ := hw
    obtain rfl := Option.some.inj h
    simp [Instr.raw, RegId.index_ofIndex, hd, ha, hb]
  | addImm d a imm =>
    simp only [RawInstr.wf, registerInRange, immediateInRange, Bool.and_eq_true, decide_eq_true_eq] at hw
    obtain ⟨⟨hd, ha⟩, hlo, hhi⟩ := hw
    obtain rfl := Option.some.inj h
    have value : (BitVec.ofInt 5 imm).toInt = imm := BitVec.toInt_ofInt_eq_self (by decide) (by omega) (by omega)
    simp [Instr.raw, RegId.index_ofIndex, hd, ha, value]
  | unsupported op low =>
    simp only [RawInstr.wf, Bool.and_eq_true, decide_eq_true_eq] at hw
    obtain ⟨⟨hop, hne⟩, hlow⟩ := hw
    obtain rfl := Option.some.inj h
    have opcode : (BitVec.ofNat 4 op).toNat = op := by simp; omega
    have lowBits : (BitVec.ofNat 12 low).toNat = low := by simp; omega
    have entry : BitVec.ofNat 4 op ≠ 0b0001#4 := fun e => hne (by rw [← opcode, e]; rfl)
    rw [raw_unsupportedInstr _ entry, opcode, lowBits]

/-- Settles O18: writing and assembling are inverse on well-formed text. -/
theorem assemblerAcceptsExactlyWellFormedText : Obligations.AssemblerAcceptsExactlyWellFormedText := by
  refine fun r i => ⟨fun h => ⟨wf_of_assemble h, raw_of_assemble h⟩, ?_⟩
  rintro ⟨-, rfl⟩
  exact assemble_raw i

end Sys2Proof.Machine
end

section
/-! PROOFS. One STEP and what it keeps (41_instruction_cycle.md, 60_exceptions.md): the record of a fatal condition, the STEP as
an inversion lemma on its next state, the whole STEP as R99's function, and the invariant. -/

namespace Sys2Proof.Machine

open Sys2Proof.Reference

/-! ### The record of a fatal condition -/

/-- R115: fault entry writes the record and nothing else. -/
theorem raisesOnly_raise (s : State) (c : Cause) (addr : Word) (word : Option Word) :
    RaisesOnly s (s.raise c addr word) c addr word :=
  ⟨rfl, fun _ => rfl, rfl, rfl, fun _ => rfl, rfl, rfl⟩

/-- R92, R112: the STEP of a word without a table entry raises UNSUPPORTED_OPCODE with that word. -/
theorem step_of_unsupportedOpcode {s : State} (hf : s.canFetch) (ho : (s.memRead s.pc).toNat / 4096 ≠ 1) :
    step s = .next (raiseUnsupportedOpcode (s.memRead s.pc) s) := by
  rw [step_of_canFetch hf, decode_unsupported ho, exec_unsupportedInstr _ _ (opcode_ne_one ho), encodeOpcode_fields]
  rfl

/-- Settles O25: the STEP is a fault entry. -/
theorem unsupportedOpcodeStep : Obligations.UnsupportedOpcodeStep :=
  fun s hf ho => ⟨_, step_of_unsupportedOpcode hf ho, raisesOnly_raise s ..⟩

/-- Settles O26: the bound is tested before memory is read, so the STEP is a fault entry with any memory. -/
theorem streamExhaustionStep : Obligations.StreamExhaustionStep :=
  fun s m hr hb => ⟨_, step_of_exhausted (s := { s with mem := m }) hr hb, raisesOnly_raise { s with mem := m } ..⟩

/-- R69, R112: the row of an opcode without a table entry raises UNSUPPORTED_OPCODE with the opcode above its low bits. -/
theorem rowRaises_unsupportedInstr (op : BitVec 4) (h : op ≠ 0b0001#4) : RowRaises op.toNat (unsupportedInstr op) := by
  intro low s
  have word : encodeOpcode op low = BitVec.ofNat 16 (op.toNat * 4096 + low.toNat) := by
    rw [← encodeOpcode_toNat, BitVec.ofNat_toNat, BitVec.setWidth_eq]
  rw [← word]
  exact ⟨_, exec_unsupportedInstr low s h, raisesOnly_raise s ..⟩

/-- Settles O24: `rowRaises_unsupportedInstr` at each of the fifteen opcode values. -/
theorem unsupportedRowsRaise : Obligations.UnsupportedRowsRaise :=
  have row := rowRaises_unsupportedInstr
  ⟨row 0 (by decide), row 2 (by decide), row 3 (by decide), row 4 (by decide), row 5 (by decide), row 6 (by decide),
    row 7 (by decide), row 8 (by decide), row 9 (by decide), row 10 (by decide), row 11 (by decide), row 12 (by decide),
    row 13 (by decide), row 14 (by decide), row 15 (by decide)⟩

/-! ### The next state of a STEP -/

/-- What the next state of a STEP can be: the same, when faulted; the record of STREAM_EXHAUSTION; a result written to the
register of bits 11..9 and the pc moved on, for an ADD; the record of UNSUPPORTED_OPCODE. -/
theorem next_cases {s t : State} (h : step s = .next t) :
    (s.run ≠ .running ∧ t = s) ∨
    (s.run = .running ∧ s.streamLen.val ≤ s.pc.toNat ∧ t = raiseStreamExhaustion s) ∨
    (s.canFetch ∧ (s.memRead s.pc).toNat / 4096 = 1 ∧ ∃ d r, d.index = (s.memRead s.pc).toNat / 512 % 8 ∧
      t = (s.writeResult d r).setPc (s.pc + 1#16)) ∨
    (s.canFetch ∧ (s.memRead s.pc).toNat / 4096 ≠ 1 ∧ t = raiseUnsupportedOpcode (s.memRead s.pc) s) := by
  rcases step_cases s with ⟨⟨c, a, w, hr⟩, hs⟩ | ⟨hr, hb, hs⟩ | ⟨hf, ho, d, a, b, hd, hs⟩ |
      ⟨hf, ho, d, a, f, hd, hs⟩ | ⟨hf, ho, hs⟩ <;>
    obtain rfl := Host.Outcome.next.inj (h.symm.trans hs)
  · exact .inl ⟨by simp [hr], rfl⟩
  · exact .inr (.inl ⟨hr, hb, rfl⟩)
  · obtain ⟨-, dr, -⟩ := (decode_eq_addReg_iff _ d a b).mp hd
    exact .inr (.inr (.inl ⟨hf, ho, d, _, dr, rfl⟩))
  · obtain ⟨-, dr, -⟩ := (decode_eq_addImm_iff _ d a f).mp hd
    exact .inr (.inr (.inl ⟨hf, ho, d, _, dr, rfl⟩))
  · exact .inr (.inr (.inr ⟨hf, ho, rfl⟩))

/-- Settles O33: only an ADD leaves the machine RUNNING, and it was fetched, so its next pc does not wrap; in every other case the
state is the same but for the record. -/
theorem pcAdvancesByOneOrStays : Obligations.PcAdvancesByOneOrStays := by
  refine fun s t => ⟨fun ⟨h, running⟩ => ?_, fun h faulted => ?_⟩
  · rcases next_cases h with ⟨hr, rfl⟩ | ⟨-, -, rfl⟩ | ⟨hf, -, d, r, -, rfl⟩ | ⟨-, -, rfl⟩
    · exact absurd running hr
    · exact nomatch running
    · exact toNat_pc_add_one_of_canFetch hf
    · exact nomatch running
  · rcases next_cases h with ⟨-, rfl⟩ | ⟨-, -, rfl⟩ | ⟨hf, -, d, r, -, rfl⟩ | ⟨-, -, rfl⟩
    · rfl
    · rfl
    · exact absurd ((s.writeResult_run d r).trans hf.1) faulted
    · rfl

/-- Settles O34: in every case of `next_cases` but the ADD the registers and the condition code are the same. -/
theorem onlyAddChangesRegistersAndCondition : Obligations.OnlyAddChangesRegistersAndCondition := by
  intro s t h
  rcases next_cases h with ⟨-, rfl⟩ | ⟨-, -, rfl⟩ | ⟨hf, ho, d, r, hd, rfl⟩ | ⟨-, -, rfl⟩
  · exact ⟨fun j hj => absurd rfl hj, fun hc => absurd rfl hc⟩
  · exact ⟨fun j hj => absurd rfl hj, fun hc => absurd rfl hc⟩
  · have running : ((s.writeResult d r).setPc (s.pc + 1#16)).run = .running := (s.writeResult_run d r).trans hf.1
    refine ⟨fun j hj => ?_, fun _ => ⟨hf, ho, running⟩⟩
    have written : j = d := by
      by_contra other
      exact hj ((s.reg_writeResult d j r).trans (if_neg other))
    exact ⟨hf, ho, written ▸ hd, running⟩
  · exact ⟨fun j hj => absurd rfl hj, fun hc => absurd rfl hc⟩

/-- R32, R42: no STEP writes memory or STREAM_LEN. -/
theorem mem_streamLen_of_step {s t : State} (h : step s = .next t) : t.mem = s.mem ∧ t.streamLen = s.streamLen := by
  rcases next_cases h with ⟨-, rfl⟩ | ⟨-, -, rfl⟩ | ⟨-, -, d, r, -, rfl⟩ | ⟨-, -, rfl⟩
  · exact ⟨rfl, rfl⟩
  · exact ⟨rfl, rfl⟩
  · exact ⟨s.writeResult_mem d r, s.writeResult_streamLen d r⟩
  · exact ⟨rfl, rfl⟩

/-! ### The invariant -/

/-- R35: a RUNNING machine has no record to be sound. -/
theorem faultRecordSound_of_running {s : State} (h : s.run = .running) : s.faultRecordSound := by
  simp only [State.faultRecordSound, h]

/-- R111: the record of STREAM_EXHAUSTION is sound where the stream has no word. -/
theorem faultRecordSound_raiseStreamExhaustion {s : State} (h : s.streamLen.val ≤ s.pc.toNat) :
    (raiseStreamExhaustion s).faultRecordSound := ⟨rfl, rfl, h⟩

/-- R112: the record of UNSUPPORTED_OPCODE is sound where the stream has a word without a table entry. -/
theorem faultRecordSound_raiseUnsupportedOpcode {s : State} (hb : s.pc.toNat < s.streamLen.val)
    (ho : (s.memRead s.pc).toNat / 4096 ≠ 1) : (raiseUnsupportedOpcode (s.memRead s.pc) s).faultRecordSound :=
  ⟨rfl, rfl, hb, ho⟩

/-- Settles O40: an ADD was fetched inside the stream, so the pc it leaves is not past the end; a fatal condition leaves a sound
record; no case writes memory. -/
theorem stepKeepsInvariant : Obligations.StepKeepsInvariant := by
  rintro s t ⟨canonical, bound, sound⟩ h
  rcases next_cases h with ⟨-, rfl⟩ | ⟨-, hb, rfl⟩ | ⟨hf, -, d, r, -, rfl⟩ | ⟨hf, ho, rfl⟩
  · exact ⟨canonical, bound, sound⟩
  · exact ⟨canonical, bound, faultRecordSound_raiseStreamExhaustion hb⟩
  · refine ⟨by simpa using canonical, ?_, faultRecordSound_of_running ((s.writeResult_run d r).trans hf.1)⟩
    have inside : s.pc.toNat < s.streamLen.val := hf.2
    simpa [toNat_pc_add_one_of_canFetch hf] using inside
  · exact ⟨canonical, bound, faultRecordSound_raiseUnsupportedOpcode hf.2 ho⟩

/-! ### The STEP as R99's function -/

/-- R22: the register of a field value, by its number. -/
theorem regNo_index (r : RegId) : regNo r.index = r := by cases r <;> rfl

/-- R102: `SetCC` of a word and of its number. -/
theorem setCC_toNat (r : Word) : setCC r.toNat = CondCode.ofResult r := by
  have zero_iff : r.toNat = 0 ↔ r = 0#16 := by rw [← BitVec.toNat_inj, BitVec.toNat_ofNat]
  have sign_iff : r.toNat / 32768 = 1 ↔ isNegative r = true := by
    have := r.isLt
    rw [isNegative_iff]
    omega
  simp only [setCC, CondCode.ofResult, zero_iff, sign_iff]

/-- R94, R99: writing a result and moving the pc on is the completion of R99. -/
theorem complete_eq (s : State) (d : RegId) (r : Word) :
    complete s d.index r.toNat = (s.writeResult d r).setPc (s.pc + 1#16) := by
  have next : BitVec.ofNat 16 (s.pc.toNat + 1) = s.pc + 1#16 := by
    apply BitVec.eq_of_toNat_eq
    simp [BitVec.toNat_add]
  rw [complete, regNo_index, setCC_toNat, next, BitVec.ofNat_toNat, BitVec.setWidth_eq, State.writeResult_eq]
  rfl

section
variable {s : State}

theorem stepOfSpec_of_faulted {c : Cause} {a : Word} {w : Option Word} (h : s.run = .faulted c a w) : stepOfSpec s = s := by
  simp only [stepOfSpec, h]

theorem stepOfSpec_of_exhausted (hr : s.run = .running) (h : s.streamLen.val ≤ s.pc.toNat) :
    stepOfSpec s = raiseStreamExhaustion s := by
  simp only [stepOfSpec, hr, if_pos h]
  rfl

theorem stepOfSpec_of_unsupported (hf : s.canFetch) (h : (s.memRead s.pc).toNat / 4096 ≠ 1) :
    stepOfSpec s = raiseUnsupportedOpcode (s.memRead s.pc) s := by
  simp only [stepOfSpec, hf.1, if_neg (Nat.not_le.mpr hf.2), if_neg h]
  rfl

theorem stepOfSpec_of_addReg {d a b : RegId} (hf : s.canFetch) (h : decode (s.memRead s.pc) = .addReg d a b) :
    stepOfSpec s = complete s d.index (s.reg a + s.reg b).toNat := by
  obtain ⟨form, hd, ha, hb⟩ := (decode_eq_addReg_iff _ d a b).mp h
  obtain ⟨opcode, mode⟩ := (isAddReg_iff _).mp form
  simp only [stepOfSpec, hf.1, if_neg (Nat.not_le.mpr hf.2), if_pos opcode, if_pos mode, ← hd, ← ha, ← hb, regNo_index]
  rw [BitVec.toNat_add]

theorem stepOfSpec_of_addImm {d a : RegId} {f : BitVec 5} (hf : s.canFetch) (h : decode (s.memRead s.pc) = .addImm d a f) :
    stepOfSpec s = complete s d.index (s.reg a + immediate f).toNat := by
  obtain ⟨form, hd, ha, hi⟩ := (decode_eq_addImm_iff _ d a f).mp h
  obtain ⟨opcode, mode⟩ := (isAddImm_iff _).mp form
  have notReg : ¬ (s.memRead s.pc).toNat / 32 % 2 = 0 := by omega
  simp only [stepOfSpec, hf.1, if_neg (Nat.not_le.mpr hf.2), if_pos opcode, if_neg notReg, ← hd, ← ha, ← hi, regNo_index]
  rw [BitVec.toNat_add, immediate_toNat_eq_sext5]

end

/-- Settles O31: the five cases of a STEP are the five branches of R99's function. -/
theorem stepIsTheReferenceStep : Obligations.StepIsTheReferenceStep := by
  intro s
  rcases step_cases s with ⟨⟨c, a, w, hr⟩, hs⟩ | ⟨hr, hb, hs⟩ | ⟨hf, -, d, a, b, hd, hs⟩ |
      ⟨hf, -, d, a, f, hd, hs⟩ | ⟨hf, ho, hs⟩
  · rw [hs, stepOfSpec_of_faulted hr]
  · rw [hs, stepOfSpec_of_exhausted hr hb]
  · rw [hs, stepOfSpec_of_addReg hf hd, complete_eq]
  · rw [hs, stepOfSpec_of_addImm hf hd, complete_eq]
  · rw [hs, stepOfSpec_of_unsupported hf ho]

/-- Settles O32: the next state is the one R99's function gives. -/
theorem everyStepHasANextState : Obligations.EveryStepHasANextState :=
  fun s => ⟨stepOfSpec s, stepIsTheReferenceStep s⟩

end Sys2Proof.Machine
end

section
/-! PROOFS. What one STEP reads, and runs of many STEPs (20_memory.md section 1, 41_instruction_cycle.md sections 1 and 3,
70_reset_and_hazards.md sections 2 and 4). -/

namespace Sys2Proof.Machine

open Sys2Proof.Reference

/-! ### The STEP of an ADD, and what a STEP reads -/

/-- R94, R100: the STEP of a register-form word. -/
theorem step_of_addReg {s : State} {d a b : RegId} (hf : s.canFetch) (hd : decode (s.memRead s.pc) = .addReg d a b) :
    step s = .next ((s.writeResult d (s.reg a + s.reg b)).setPc (s.pc + 1#16)) := by
  rw [step_of_canFetch hf, hd, exec_addReg, commit, if_pos ((s.writeResult_run d _).trans hf.1)]

/-- R94, R101: the STEP of an immediate-form word. -/
theorem step_of_addImm {s : State} {d a : RegId} {f : BitVec 5} (hf : s.canFetch)
    (hd : decode (s.memRead s.pc) = .addImm d a f) :
    step s = .next ((s.writeResult d (s.reg a + immediate f)).setPc (s.pc + 1#16)) := by
  rw [step_of_canFetch hf, hd, exec_addImm, commit, if_pos ((s.writeResult_run d _).trans hf.1)]

/-- Settles O30: `step_of_canFetch` runs the decoded instruction, and the commit moves the pc of a RUNNING state only. -/
theorem stepRunsTheDecodedInstruction : Obligations.StepRunsTheDecodedInstruction := by
  rintro s t i hf rfl he
  refine ⟨fun running => ?_, fun faulted => ?_⟩
  · rw [step_of_canFetch hf, he, commit, if_pos running]
  · rw [step_of_canFetch hf, he, commit, if_neg faulted]

/-- Settles O37: the written machine can fetch where the old one could, and reads the written word there. -/
theorem fetchSeesTheLatestWrite : Obligations.FetchSeesTheLatestWrite := by
  intro s v canonical hf
  have fetches : (s.memWrite s.pc v).canFetch := hf
  have fetched : (s.memWrite s.pc v).memRead s.pc = v := by simp [State.memRead_memWrite canonical]
  rw [step_of_canFetch fetches, State.memWrite_pc, fetched]

/-- What two machines that differ only in the condition code and in words not under the pc make of one STEP. -/
def SameOutcome (u v t : State) : Prop :=
  v.x = t.x ∧ v.pc = t.pc ∧ v.run = t.run ∧ v.streamLen = t.streamLen ∧ v.mem = u.mem ∧
    (t.run = .running → v.cc = t.cc) ∧ (t.run ≠ .running → v.cc = u.cc)

section
variable {s u t : State} (x : u.x = s.x) (pc : u.pc = s.pc) (run : u.run = s.run) (len : u.streamLen = s.streamLen)
  (word : u.memRead u.pc = s.memRead s.pc)

include x pc len

/-- R115: the same record leaves the same outcome. -/
theorem sameOutcome_raise (c : Cause) (a : Word) (w : Option Word) : SameOutcome u (u.raise c a w) (s.raise c a w) :=
  ⟨x, pc, rfl, len, rfl, nofun, fun _ => rfl⟩

include run

/-- R102, R105: the same result leaves the same outcome, the condition code included. -/
theorem sameOutcome_writeResult (hr : s.run = .running) (d : RegId) (r : Word) :
    SameOutcome u ((u.writeResult d r).setPc (u.pc + 1#16)) ((s.writeResult d r).setPc (s.pc + 1#16)) := by
  simp [SameOutcome, x, pc, run, len, hr]

include word

/-- R42, R91: a STEP reads the registers, the pc, run, STREAM_LEN and the word at the pc, and nothing else. -/
theorem step_sameOutcome (h : step s = .next t) : ∃ v, step u = .next v ∧ SameOutcome u v t := by
  have reg (i : RegId) : u.reg i = s.reg i := congrArg (RegFile.get · i) x
  have fetches (hf : s.canFetch) : u.canFetch := by rwa [State.canFetch, run, pc, len]
  rcases step_cases s with ⟨⟨c, a, w, hr⟩, hs⟩ | ⟨hr, hb, hs⟩ | ⟨hf, -, d, a, b, hd, hs⟩ |
      ⟨hf, -, d, a, f, hd, hs⟩ | ⟨hf, ho, hs⟩ <;>
    obtain rfl := Host.Outcome.next.inj (hs.symm.trans h)
  · exact ⟨u, step_of_faulted (run.trans hr), x, pc, run, len, rfl, by simp [hr], fun _ => rfl⟩
  · refine ⟨_, step_of_exhausted (run.trans hr) (by rwa [len, pc]), ?_⟩
    rw [raiseStreamExhaustion, pc]
    exact sameOutcome_raise x pc len ..
  · refine ⟨_, step_of_addReg (fetches hf) (word ▸ hd), ?_⟩
    rw [reg, reg]
    exact sameOutcome_writeResult x pc run len hf.1 ..
  · refine ⟨_, step_of_addImm (fetches hf) (word ▸ hd), ?_⟩
    rw [reg]
    exact sameOutcome_writeResult x pc run len hf.1 ..
  · refine ⟨_, step_of_unsupportedOpcode (fetches hf) (word ▸ ho), ?_⟩
    rw [raiseUnsupportedOpcode, word, pc]
    exact sameOutcome_raise x pc len ..

end

/-- Settles O36: the machine with other memory and condition code agrees on all that a STEP reads. -/
theorem stepReadsOneWordAndNoCondition : Obligations.StepReadsOneWordAndNoCondition :=
  fun s _ m c h word => step_sameOutcome (s := s) (u := { s with mem := m, cc := c }) rfl rfl rfl rfl word h

/-! ### Runs -/

/-- A run goes on from the state it has reached. -/
theorem runSteps_add {n : Nat} {s t : State} (h : runSteps n s = .next t) (k : Nat) : runSteps (n + k) s = runSteps k t := by
  induction n generalizing s with
  | zero =>
    obtain rfl := Host.Outcome.next.inj h
    rw [Nat.zero_add]
  | succ n ih =>
    obtain ⟨u, hu⟩ := everyStepHasANextState s
    rw [runSteps_succ, hu] at h
    rw [Nat.succ_add, runSteps_succ, hu]
    exact ih h

theorem runSteps_of_step {s t : State} (h : step s = .next t) (n : Nat) : runSteps (n + 1) s = runSteps n t := by
  rw [runSteps_succ, h]

/-- The last of `n + 1` STEPs. -/
theorem runSteps_succ_of_next {n : Nat} {s t u : State} (h : runSteps n s = .next t) (hs : step t = .next u) :
    runSteps (n + 1) s = .next u := by
  rw [runSteps_add h, runSteps_of_step hs, runSteps_zero]

/-- What every STEP keeps, every run keeps. -/
theorem runSteps_keeps {P : State → Prop} (keeps : ∀ s t, P s → step s = .next t → P t) {n : Nat} {s t : State} (hP : P s)
    (h : runSteps n s = .next t) : P t := by
  induction n generalizing s with
  | zero =>
    obtain rfl := Host.Outcome.next.inj h
    exact hP
  | succ n ih =>
    obtain ⟨u, hu⟩ := everyStepHasANextState s
    rw [runSteps_of_step hu] at h
    exact ih (keeps s u hP hu) h

/-- R95: a machine that is not RUNNING answers itself. -/
theorem step_of_not_running {s : State} (h : s.run ≠ .running) : step s = .next s := by
  cases hr : s.run with
  | running => exact absurd hr h
  | faulted c a w => exact step_of_faulted hr

/-- Settles O27: by induction on the number of STEPs, each of which is a no-op. -/
theorem faultedMachineStays : Obligations.FaultedMachineStays := by
  intro n s h
  induction n with
  | zero => rfl
  | succ n ih => rw [runSteps_of_step (step_of_not_running h), ih]

/-- Settles O28: the longer run goes on from the faulted state, which stays. -/
theorem firstFaultIsKept : Obligations.FirstFaultIsKept :=
  fun _ k _ t h faulted => (runSteps_add h k).trans (faultedMachineStays k t faulted)

/-- R113: no STEP raises INVALID_REGISTER. -/
theorem step_keeps_not_invalidRegister (s t : State) (hP : ∀ a w, s.run ≠ .faulted .invalidRegister a w)
    (h : step s = .next t) : ∀ a w, t.run ≠ .faulted .invalidRegister a w := by
  rcases next_cases h with ⟨-, rfl⟩ | ⟨-, -, rfl⟩ | ⟨-, -, d, r, -, rfl⟩ | ⟨-, -, rfl⟩
  · exact hP
  · exact fun a w => nofun
  · simpa using hP
  · exact fun a w => nofun

/-- Settles O29: no STEP raises it, so no run does, and a 3-bit field is below 8. -/
theorem invalidRegisterIsNeverRaised : Obligations.InvalidRegisterIsNeverRaised := by
  refine ⟨fun n s t hP h => runSteps_keeps step_keeps_not_invalidRegister hP h, fun n hn => regOfIndex_of_le hn, fun f => ?_⟩
  rw [regOfIndex_of_lt f.isLt, RegId.ofIndex, BitVec.ofNat_toNat, BitVec.setWidth_eq]

/-- R32, R42: memory and STREAM_LEN are constant during a run. -/
theorem mem_streamLen_of_runSteps {n : Nat} {s t : State} (h : runSteps n s = .next t) :
    t.mem = s.mem ∧ t.streamLen = s.streamLen := by
  refine runSteps_keeps (P := fun u => u.mem = s.mem ∧ u.streamLen = s.streamLen) ?_ ⟨rfl, rfl⟩ h
  rintro u v ⟨mem, len⟩ hs
  obtain ⟨mem', len'⟩ := mem_streamLen_of_step hs
  exact ⟨mem'.trans mem, len'.trans len⟩

/-- Settles O35: no STEP writes them (`mem_streamLen_of_step`). -/
theorem memoryIsConstantDuringARun : Obligations.MemoryIsConstantDuringARun := by
  intro n s t h
  obtain ⟨mem, len⟩ := mem_streamLen_of_runSteps h
  exact ⟨fun a => congrArg (Memory.read · a) mem, mem, len⟩

/-! ### Where a run ends -/

/-- R94, R95: every STEP of a machine that can fetch an ADD completes, one address on. -/
theorem step_of_opcode_one {s : State} (hf : s.canFetch) (ho : (s.memRead s.pc).toNat / 4096 = 1) :
    ∃ t, step s = .next t ∧ t.run = .running ∧ t.pc.toNat = s.pc.toNat + 1 := by
  obtain ⟨t, hs⟩ := everyStepHasANextState s
  rcases next_cases hs with ⟨hr, -⟩ | ⟨-, hb, -⟩ | ⟨-, -, d, r, -, rfl⟩ | ⟨-, hn, -⟩
  · exact absurd hf.1 hr
  · exact absurd hf.2 (Nat.not_lt.mpr hb)
  · exact ⟨_, hs, (s.writeResult_run d r).trans hf.1, toNat_pc_add_one_of_canFetch hf⟩
  · exact absurd ho hn

/-- 70_reset_and_hazards.md section 2: up to its end, a stream of ADDs runs one word a STEP. -/
theorem runSteps_of_adds {s : State} (hr : s.run = .running) (hp : s.pc = 0#16)
    (adds : ∀ a : Word, a.toNat < s.streamLen.val → (s.memRead a).toNat / 4096 = 1) :
    ∀ n, n ≤ s.streamLen.val → ∃ t, runSteps n s = .next t ∧ t.run = .running ∧ t.pc.toNat = n := by
  intro n hn
  induction n with
  | zero => exact ⟨s, rfl, hr, by simp [hp]⟩
  | succ n ih =>
    obtain ⟨t, ht, running, pc⟩ := ih (by omega)
    obtain ⟨mem, len⟩ := mem_streamLen_of_runSteps ht
    have inside : t.pc.toNat < s.streamLen.val := by omega
    have fetches : t.canFetch := ⟨running, len ▸ inside⟩
    have add : (t.memRead t.pc).toNat / 4096 = 1 := by
      rw [State.memRead, mem]
      exact adds t.pc inside
    obtain ⟨u, hu, running', pc'⟩ := step_of_opcode_one fetches add
    exact ⟨u, runSteps_succ_of_next ht hu, running', by omega⟩

/-- R95, R111: a run that has come to the end of the stream shows STREAM_EXHAUSTION there from the next STEP on. -/
theorem runSteps_past_end {s u : State} {n m : Nat} (h : runSteps n s = .next u) (hr : u.run = .running)
    (hb : u.streamLen.val ≤ u.pc.toNat) (hm : n < m) : runSteps m s = .next (raiseStreamExhaustion u) := by
  have record := runSteps_succ_of_next h (step_of_exhausted hr hb)
  have kept := firstFaultIsKept (n + 1) (m - (n + 1)) s _ record nofun
  rwa [Nat.add_sub_cancel' hm] at kept

/-- Settles O41: `runSteps_of_adds` brings the machine to the end of the stream, and `runSteps_past_end` says what follows. -/
theorem streamOfAddsRunsToItsEnd : Obligations.StreamOfAddsRunsToItsEnd := by
  intro s hr hp adds n
  refine ⟨runSteps_of_adds hr hp adds n, fun hn => ?_⟩
  obtain ⟨u, hu, running, pc⟩ := runSteps_of_adds hr hp adds s.streamLen.val le_rfl
  obtain ⟨-, len⟩ := mem_streamLen_of_runSteps hu
  have streamEnd : BitVec.ofNat 16 s.streamLen.val = u.pc := by rw [← pc, BitVec.ofNat_toNat, BitVec.setWidth_eq]
  rw [streamEnd]
  exact ⟨u, hu, runSteps_past_end hu running (by rw [len, pc]) hn⟩

/-- R111: a STEP that completes was fetched inside the stream. -/
theorem inside_of_completes {s t : State} (h : Completes s t) : s.pc.toNat < s.streamLen.val := by
  obtain ⟨hs, running⟩ := h
  rcases next_cases hs with ⟨hr, rfl⟩ | ⟨-, -, rfl⟩ | ⟨hf, -⟩ | ⟨hf, -⟩
  · exact absurd running hr
  · exact nomatch running
  · exact hf.2
  · exact hf.2

/-- Settles O42: by induction on the number of STEPs: a STEP that does not end the run uses up one of the words left. -/
theorem everyRunEndsInAFault : Obligations.EveryRunEndsInAFault := by
  intro s n hn
  induction n generalizing s with
  | zero => exact absurd hn (Nat.not_lt_zero _)
  | succ n ih =>
    obtain ⟨t, hs⟩ := everyStepHasANextState s
    rw [runSteps_of_step hs]
    by_cases running : t.run = .running
    · obtain ⟨advances, -⟩ := pcAdvancesByOneOrStays s t
      have pc : t.pc.toNat = s.pc.toNat + 1 := advances ⟨hs, running⟩
      have inside := inside_of_completes ⟨hs, running⟩
      obtain ⟨-, len⟩ := mem_streamLen_of_step hs
      apply ih
      rw [pc, len]
      omega
    · exact ⟨t, faultedMachineStays n t running, running⟩

end Sys2Proof.Machine
end

section
/-! PROOFS. The field functions of the bit-field extractor (40_bitfield_extractor.md R80, R81, R84). -/

namespace Sys2Proof

/-- R80: extracting a field's own bits again gives the field. -/
theorem extractField_extractField (w : Word) (h l : Nat) (hl : l ≤ h) (hh : h ≤ 15) :
    (extractField ((extractField w h l hl hh).setWidth 16) (h - l) 0 (Nat.zero_le _) (by omega)).toNat =
      (extractField w h l hl hh).toNat := by
  have fits : (extractField w h l hl hh).toNat < 2 ^ (h - l + 1) := (extractField w h l hl hh).isLt
  have narrow : 2 ^ (h - l + 1) ≤ 2 ^ 16 := Nat.pow_le_pow_right (by decide) (by omega)
  rw [extractField_toNat, BitVec.toNat_setWidth, Nat.mod_eq_of_lt (fits.trans_le narrow), Nat.pow_zero, Nat.div_one,
    Nat.sub_zero, Nat.mod_eq_of_lt fits]

/-- Settles O1: a logical shift is a division and a mask of ones a remainder, which is what `extractField_toNat` says. -/
theorem extractFieldIsShiftAndMask : Obligations.ExtractFieldIsShiftAndMask := by
  refine fun w h l hl hh => ⟨?_, extractField_extractField w h l hl hh, ?_⟩
  · rw [extractField_toNat, Nat.one_shiftLeft, Nat.and_two_pow_sub_one_eq_mod, Nat.shiftRight_eq_div_pow]
  · rw [extractField_toNat, Nat.pow_zero, Nat.div_one, Nat.mod_eq_of_lt w.isLt]

/-- Settles O2: as O1, for a field of one bit. -/
theorem bitAtIsOneBitField : Obligations.BitAtIsOneBitField := by
  refine fun w i hi => ⟨?_, ?_⟩
  · rw [bitAt_toNat, Nat.and_one_is_mod, Nat.shiftRight_eq_div_pow]
  · rw [bitAt_toNat, extractField_toNat, Nat.sub_self, Nat.zero_add, Nat.pow_one]

/-- R84: at the full width there is nothing to extend. -/
theorem sext_sixteen (v : Word) : sext 16 v = v := by
  rw [sext, BitVec.setWidth_eq, BitVec.signExtend_eq]

/-- Settles O5: the two clauses are the two branches of `sext_toNat`. -/
theorem sextExtendsDeclaredWidth : Obligations.SextExtendsDeclaredWidth := by
  refine ⟨fun N v h1 h2 => ⟨fun positive => ?_, fun negative => ?_⟩, sext_sixteen⟩
  · rw [sext_toNat, if_pos positive]
  · rw [sext_toNat, if_neg (Nat.not_lt.mpr negative)]

end Sys2Proof
end

section
/-! PROOFS. The two readings of a sum, and the shown condition code (42_arithmetic_add.md section 3, 10_state.md section 4). -/

namespace Sys2Proof.Machine

/-- 42_arithmetic_add.md section 3: word addition, read as signed, is congruent to the signed sum. -/
theorem dvd_toInt_add_sub (x y : Word) : (65536 : Int) ∣ x.toInt + y.toInt - (x + y).toInt := by
  rw [BitVec.toInt_add]
  exact Int.dvd_self_sub_bmod

/-- R67: the immediate #0. -/
theorem immediate_of_toNat_eq_zero {f : BitVec 5} (h : f.toNat = 0) : immediate f = 0#16 := by
  apply BitVec.eq_of_toNat_eq
  rw [immediate_toNat, h]
  rfl

/-- R67: the immediate #-1. -/
theorem immediate_toNat_of_toNat_eq_31 {f : BitVec 5} (h : f.toNat = 31) : (immediate f).toNat = 65535 := by
  rw [immediate_toNat, h]
  rfl

/-- Settles O23: both forms write a word sum (`exec_addReg`, `exec_addImm`), and word addition is the integer sum modulo 65,536 on
either reading. -/
theorem additionWrapsOnBothReadings : Obligations.AdditionWrapsOnBothReadings := by
  refine ⟨fun d a b s => ⟨_, exec_addReg d a b s, ?_⟩, fun d a f s => ⟨_, exec_addImm d a f s, ?_⟩, BitVec.add_assoc⟩
  · have written : (s.writeResult d (s.reg a + s.reg b)).reg d = s.reg a + s.reg b := by simp
    rw [written, exec_addReg, BitVec.add_comm (s.reg b)]
    exact ⟨BitVec.toNat_add .., BitVec.le_toInt _, Int.le_of_lt_add_one BitVec.toInt_lt, dvd_toInt_add_sub _ _, rfl⟩
  · have written : (s.writeResult d (s.reg a + immediate f)).reg d = s.reg a + immediate f := by simp
    rw [written, ← toInt_immediate]
    refine ⟨dvd_toInt_add_sub _ _, fun zero => ?_, fun ones => ?_⟩
    · rw [immediate_of_toNat_eq_zero zero, BitVec.add_zero]
    · rw [BitVec.toNat_add, immediate_toNat_of_toNat_eq_31 ones]

/-- Settles O49: three values, written out. -/
theorem shownConditionCodeIsOneHot : Obligations.ShownConditionCodeIsOneHot := by
  refine ⟨fun c => ?_, fun c d same => ?_, rfl, rfl, rfl⟩
  · cases c with
    | negative => exact ⟨2, by decide, rfl⟩
    | zero => exact ⟨1, by decide, rfl⟩
    | positive => exact ⟨0, by decide, rfl⟩
  · revert same
    cases c <;> cases d <;> decide

end Sys2Proof.Machine
end

section
/-! PROOFS. Memory as data (20_memory.md section 1; log entry 8): what a write does, that the canonical form is unique, and the
placing of a word. -/

namespace Sys2Proof.Machine

/-- Settles O8: the one law of reading and writing (`State.memRead_memWrite`) at the written address and at any other. -/
theorem memoryWriteChangesOneWord : Obligations.MemoryWriteChangesOneWord := by
  intro s a v canonical
  have read := State.memRead_memWrite canonical a
  refine ⟨?_, fun b other => ?_, fun _ => rfl, rfl, rfl, rfl, Memory.write_wf canonical a v⟩
  · rw [read, if_pos rfl]
  · rw [read, if_neg other]

/-- The canonical form of a tail. -/
theorem Memory.wf_of_cons {c : Cell} {m : Memory} (h : Memory.wf (c :: m)) : m.wf := by
  obtain ⟨rising, cells⟩ := h
  exact ⟨rising.of_cons, fun d hd => cells d (List.mem_cons_of_mem c hd)⟩

/-- A canonical memory lists exactly the addresses that do not read as an unlisted one, each with what it reads. -/
theorem Memory.mem_iff_lookup {k : Nat} {v : Word} : ∀ {m : Memory}, m.wf →
    ((k, v) ∈ m ↔ Memory.lookup k m = v ∧ v ≠ Memory.unlisted)
  | [], _ => by
    simp only [List.not_mem_nil, false_iff, Memory.lookup]
    rintro ⟨rfl, listed⟩
    exact listed rfl
  | (a, u) :: rest, h => by
    obtain ⟨rising, cells⟩ := h
    obtain ⟨above, -⟩ := List.pairwise_cons.mp rising
    obtain ⟨-, listed⟩ := cells (a, u) List.mem_cons_self
    rw [Memory.lookup_cons, List.mem_cons, Prod.mk.injEq]
    by_cases ha : a = k
    · have notInRest : (k, v) ∉ rest := fun hk => Nat.ne_of_lt (above _ hk) ha
      rw [if_pos ha]
      constructor
      · rintro (⟨-, rfl⟩ | hk)
        · exact ⟨rfl, listed⟩
        · exact absurd hk notInRest
      · rintro ⟨rfl, -⟩
        exact .inl ⟨ha.symm, rfl⟩
    · rw [if_neg ha, ← Memory.mem_iff_lookup (Memory.wf_of_cons ⟨rising, cells⟩)]
      exact or_iff_right fun ⟨hk, _⟩ => ha hk.symm

/-- The addresses of a canonical memory differ, so its cells do. -/
theorem Memory.nodup_of_wf {m : Memory} (h : m.wf) : m.Nodup := by
  obtain ⟨rising, -⟩ := h
  exact rising.imp fun lt same => Nat.ne_of_lt lt (congrArg Prod.fst same)

/-- A canonical memory lists addresses inside the address space. -/
theorem Memory.address_lt_of_wf {m : Memory} (h : m.wf) {c : Cell} (hc : c ∈ m) : c.1 < Config.memWords := by
  obtain ⟨-, cells⟩ := h
  obtain ⟨inside, -⟩ := cells c hc
  exact inside

/-- A canonical memory lists what a canonical memory lists that reads alike. -/
theorem Memory.mem_of_reads_eq {m n : Memory} (hm : m.wf) (hn : n.wf) (same : ∀ a : Word, m.read a = n.read a) {c : Cell}
    (hc : c ∈ m) : c ∈ n := by
  have address : (BitVec.ofNat 16 c.1).toNat = c.1 := Nat.mod_eq_of_lt (Memory.address_lt_of_wf hm hc)
  have reads := same (BitVec.ofNat 16 c.1)
  rw [Memory.read, Memory.read, address] at reads
  rw [← Prod.mk.eta (p := c), Memory.mem_iff_lookup hm, reads] at hc
  exact (Memory.mem_iff_lookup hn).mpr hc

/-- Settles O9: memories that read alike list the same cells, and a list of cells with rising addresses has one order. -/
theorem equalReadsMeanEqualMemories : Obligations.EqualReadsMeanEqualMemories := by
  intro m n hm hn same
  have cells : m.Perm n := (List.perm_ext_iff_of_nodup (Memory.nodup_of_wf hm) (Memory.nodup_of_wf hn)).mpr fun _ =>
    ⟨Memory.mem_of_reads_eq hm hn same, Memory.mem_of_reads_eq hn hm fun a => (same a).symm⟩
  obtain ⟨risingM, -⟩ := hm
  obtain ⟨risingN, -⟩ := hn
  exact cells.eq_of_pairwise (fun _ _ _ _ lt gt => absurd gt (Nat.lt_asymm lt)) risingM risingN

/-- Log entries 16, 17: below 0xFFFF the stream reaches past the pc. -/
theorem pc_lt_streamLenThroughPc {s : State} (h : s.pc.toNat < 65535) : s.pc.toNat < (streamLenThroughPc s).val := by
  unfold streamLenThroughPc
  split
  · assumption
  · simp only
    omega

/-- Settles O50: the placing lets the machine fetch, and the fetch reads the placed word. -/
theorem placedWordIsRunNext : Obligations.PlacedWordIsRunNext := by
  intro s nbits w canonical h
  have fetches : (s.withFetchWord nbits w).canFetch := ⟨rfl, pc_lt_streamLenThroughPc h⟩
  have fetched : (s.withFetchWord nbits w).memRead s.pc = tableWord nbits w :=
    (State.memRead_memWrite canonical s.pc s.pc _).trans (if_pos rfl)
  have pc : (s.withFetchWord nbits w).pc = s.pc := rfl
  rw [step_of_canFetch fetches, pc, fetched, tableWord]

end Sys2Proof.Machine
end

section
/-! PROOFS. Reset, PRELOAD and the host's session (10_state.md section 8, 60_exceptions.md section 3, 70_reset_and_hazards.md
section 1): what one PRELOAD write and a list of them leave alone, the launch state, and the loading of a stream. -/

namespace Sys2Proof.Machine

/-! ### One PRELOAD write -/

@[simp] theorem State.preload_pc (s : State) (p : Preload) : (s.preload p).pc = s.pc := by cases p <;> rfl

@[simp] theorem State.preload_cc (s : State) (p : Preload) : (s.preload p).cc = s.cc := by cases p <;> rfl

@[simp] theorem State.preload_run (s : State) (p : Preload) : (s.preload p).run = s.run := by cases p <;> rfl

theorem State.preload_mem_wf {s : State} (h : s.mem.wf) (p : Preload) : (s.preload p).mem.wf := by
  cases p with
  | word a v => exact Memory.write_wf h a v
  | reg i v => exact h
  | streamLen n => exact h

/-- R131: a register that the write does not name stays. -/
theorem State.reg_preload {s : State} {p : Preload} {i : RegId} (h : ∀ v, Preload.reg i v ≠ p) :
    (s.preload p).reg i = s.reg i := by
  cases p with
  | word a v => rfl
  | reg j v =>
    have other : i ≠ j := fun same => h v (by rw [same])
    exact (s.reg_setReg j i v).trans (if_neg other)
  | streamLen n => rfl

/-- R131: a word that the write does not name stays. -/
theorem State.memRead_preload {s : State} (canonical : s.mem.wf) {p : Preload} {a : Word}
    (h : ∀ v, Preload.word a v ≠ p) : (s.preload p).memRead a = s.memRead a := by
  cases p with
  | word b v =>
    have other : a ≠ b := fun same => h v (by rw [same])
    exact (State.memRead_memWrite canonical b a v).trans (if_neg other)
  | reg j v => rfl
  | streamLen n => rfl

/-! ### A list of PRELOAD writes -/

theorem State.preloadAll_cons (s : State) (p : Preload) (ps : List Preload) :
    s.preloadAll (p :: ps) = (s.preload p).preloadAll ps := rfl

theorem State.preloadAll_append (s : State) (ps qs : List Preload) :
    s.preloadAll (ps ++ qs) = (s.preloadAll ps).preloadAll qs := by
  induction ps generalizing s with
  | nil => rfl
  | cons p ps ih => exact ih (s.preload p)

/-- What every PRELOAD write on the list keeps, the list keeps. -/
theorem State.preloadAll_keeps {P : State → Prop} {ps : List Preload}
    (keeps : ∀ p ∈ ps, ∀ s : State, P s → P (s.preload p)) {s : State} (h : P s) : P (s.preloadAll ps) := by
  induction ps generalizing s with
  | nil => exact h
  | cons p ps ih =>
    exact ih (fun q hq => keeps q (List.mem_cons_of_mem p hq)) (keeps p List.mem_cons_self s h)

@[simp] theorem State.preloadAll_pc (s : State) (ps : List Preload) : (s.preloadAll ps).pc = s.pc :=
  State.preloadAll_keeps (P := fun t => t.pc = s.pc) (fun p _ t => (t.preload_pc p).trans) rfl

@[simp] theorem State.preloadAll_cc (s : State) (ps : List Preload) : (s.preloadAll ps).cc = s.cc :=
  State.preloadAll_keeps (P := fun t => t.cc = s.cc) (fun p _ t => (t.preload_cc p).trans) rfl

@[simp] theorem State.preloadAll_run (s : State) (ps : List Preload) : (s.preloadAll ps).run = s.run :=
  State.preloadAll_keeps (P := fun t => t.run = s.run) (fun p _ t => (t.preload_run p).trans) rfl

theorem State.preloadAll_mem_wf {s : State} (h : s.mem.wf) (ps : List Preload) : (s.preloadAll ps).mem.wf :=
  State.preloadAll_keeps (P := fun t => t.mem.wf) (fun p _ _ ht => State.preload_mem_wf ht p) h

/-- R131: a register that no write names stays. -/
theorem State.reg_preloadAll {s : State} {ps : List Preload} {i : RegId} (h : ∀ v, Preload.reg i v ∉ ps) :
    (s.preloadAll ps).reg i = s.reg i := by
  refine State.preloadAll_keeps (P := fun t => t.reg i = s.reg i) (fun p hp t ht => ?_) rfl
  have unnamed : ∀ v, Preload.reg i v ≠ p := fun v named => h v (named ▸ hp)
  exact (State.reg_preload unnamed).trans ht

/-- R131: a word that no write names stays. -/
theorem State.memRead_preloadAll {s : State} (canonical : s.mem.wf) {ps : List Preload} {a : Word}
    (h : ∀ v, Preload.word a v ∉ ps) : (s.preloadAll ps).memRead a = s.memRead a := by
  have keeps : ∀ p ∈ ps, ∀ t : State, t.mem.wf ∧ t.memRead a = s.memRead a →
      (t.preload p).mem.wf ∧ (t.preload p).memRead a = s.memRead a := by
    rintro p hp t ⟨wf, ht⟩
    have unnamed : ∀ v, Preload.word a v ≠ p := fun v named => h v (named ▸ hp)
    exact ⟨State.preload_mem_wf wf p, (State.memRead_preload wf unnamed).trans ht⟩
  obtain ⟨-, unchanged⟩ := State.preloadAll_keeps keeps ⟨canonical, rfl⟩
  exact unchanged

/-! ### Reset and launch -/

/-- Settles O43: the reset state is a literal. -/
theorem resetLeavesZeroedMachine : Obligations.ResetLeavesZeroedMachine := by
  refine ⟨fun n => ?_, Config.resetStreamLen, rfl⟩
  exact ⟨State.reg_resetWith n, rfl, Memory.read_nil, rfl, rfl, rfl⟩

/-- A RUNNING machine at address 0 with canonical memory is sound, whatever its stream. -/
theorem inv_of_running {s : State} (canonical : s.mem.wf) (pc : s.pc = 0#16) (running : s.run = .running) : s.Inv := by
  refine ⟨canonical, ?_, faultRecordSound_of_running running⟩
  rw [pc]
  exact Nat.zero_le _

/-- Settles O38: RESET leaves a RUNNING machine at address 0 with empty memory. -/
theorem resetStateIsSound : Obligations.ResetStateIsSound :=
  fun _ => inv_of_running Memory.reset_wf rfl rfl

/-- Settles O39: PRELOAD keeps memory canonical and cannot write the pc or run. -/
theorem launchStatesAreSound : Obligations.LaunchStatesAreSound :=
  fun ps => inv_of_running (State.preloadAll_mem_wf Memory.reset_wf ps) (State.preloadAll_pc _ ps) (State.preloadAll_run _ ps)

/-- Settles O46: no PRELOAD write is of the pc, cc or run, and each changes only what it names. -/
theorem launchStateKeepsPcCcAndRun : Obligations.LaunchStateKeepsPcCcAndRun := by
  intro ps
  refine ⟨State.preloadAll_pc _ ps, State.preloadAll_cc _ ps, State.preloadAll_run _ ps, fun i h => ?_, fun a h => ?_⟩
  · exact (State.reg_preloadAll h).trans (State.reg_resetWith _ i)
  · exact (State.memRead_preloadAll Memory.reset_wf h).trans (Memory.read_nil a)

/-! ### Loading a stream -/

theorem streamWords_cons (k : Nat) (w : Word) (ws : List Word) :
    streamWords k (w :: ws) = .word (BitVec.ofNat 16 k) w :: streamWords (k + 1) ws := rfl

/-- R131: the writes of a stream are of memory words, inside the stream's addresses. -/
theorem mem_streamWords {k : Nat} {ws : List Word} {p : Preload} (h : p ∈ streamWords k ws) :
    ∃ j v, k ≤ j ∧ j < k + ws.length ∧ p = .word (BitVec.ofNat 16 j) v := by
  induction ws generalizing k with
  | nil => exact absurd h List.not_mem_nil
  | cons w ws ih =>
    rw [streamWords_cons, List.mem_cons] at h
    rw [List.length_cons]
    rcases h with rfl | h
    · exact ⟨k, w, le_rfl, by omega, rfl⟩
    · obtain ⟨j, v, lo, hi, rfl⟩ := ih h
      exact ⟨j, v, by omega, by omega, rfl⟩

/-- R131: a stream's words leave every word outside its addresses alone. -/
theorem memRead_streamWords_outside {s : State} (canonical : s.mem.wf) {k : Nat} {ws : List Word} {a : Word}
    (fits : k + ws.length ≤ 65536) (outside : a.toNat < k ∨ k + ws.length ≤ a.toNat) :
    (s.preloadAll (streamWords k ws)).memRead a = s.memRead a := by
  refine State.memRead_preloadAll canonical fun v hv => ?_
  obtain ⟨j, u, lo, hi, named⟩ := mem_streamWords hv
  obtain ⟨rfl, -⟩ := Preload.word.inj named
  rw [BitVec.toNat_ofNat] at outside
  omega

/-- R131: word `j` of a stream from address `k` stands at address `k + j`. -/
theorem memRead_streamWords {s : State} (canonical : s.mem.wf) {k j : Nat} {ws : List Word} {w : Word}
    (fits : k + ws.length ≤ 65536) (h : ws[j]? = some w) :
    (s.preloadAll (streamWords k ws)).memRead (BitVec.ofNat 16 (k + j)) = w := by
  induction ws generalizing s k j with
  | nil => simp at h
  | cons v ws ih =>
    rw [List.length_cons] at fits
    rw [streamWords_cons, State.preloadAll_cons]
    have restFits : k + 1 + ws.length ≤ 65536 := by omega
    have written : (s.preload (.word (BitVec.ofNat 16 k) v)).mem.wf := State.preload_mem_wf canonical _
    cases j with
    | zero =>
      obtain rfl : v = w := by simpa using h
      have below : (BitVec.ofNat 16 k).toNat < k + 1 := by
        rw [BitVec.toNat_ofNat]
        omega
      exact (memRead_streamWords_outside written restFits (.inl below)).trans
        ((State.memRead_memWrite canonical ..).trans (if_pos rfl))
    | succ j =>
      have shifted : k + (j + 1) = k + 1 + j := by omega
      rw [shifted]
      exact ih written restFits (by simpa using h)

/-- R131: what a stream that fits loads. -/
theorem loadStream_of_lt (s : State) {ws : List Word} (h : ws.length < 65536) :
    s.loadStream ws = some ((s.preloadAll (streamWords 0 ws)).setStreamLen ⟨ws.length, h⟩) := by
  rw [State.loadStream, dif_pos h, State.preloadAll_append]
  rfl

/-- Decision D3: a longer stream does not load. -/
theorem loadStream_of_le (s : State) {ws : List Word} (h : 65536 ≤ ws.length) : s.loadStream ws = none := by
  rw [State.loadStream, dif_neg (Nat.not_lt.mpr h)]

/-- R131: a stream writes no register. -/
theorem preloadAll_streamWords_x (s : State) (k : Nat) (ws : List Word) : (s.preloadAll (streamWords k ws)).x = s.x := by
  refine RegFile.ext_get fun i => State.reg_preloadAll fun v hv => ?_
  obtain ⟨j, u, -, -, named⟩ := mem_streamWords hv
  exact nomatch named

/-- Settles O47: a stream that fits is a list of PRELOAD writes of the words 0 to its length, then of STREAM_LEN. -/
theorem loadedStreamStandsFromAddressZero : Obligations.LoadedStreamStandsFromAddressZero := by
  refine fun s ws canonical =>
    ⟨loadStream_of_le s, fun h => ⟨_, loadStream_of_lt s h, rfl, fun k w hw => ?_, fun a ha => ?_, ?_⟩⟩
  · have stands := memRead_streamWords canonical (k := 0) (by omega) hw
    rwa [Nat.zero_add] at stands
  · exact memRead_streamWords_outside canonical (by omega) (.inr (by omega))
  · exact ⟨preloadAll_streamWords_x s 0 ws, State.preloadAll_pc .., State.preloadAll_cc .., State.preloadAll_run ..⟩

/-! ### The session -/

/-- Settles O44: RESET answers the fresh session, whatever the session was. -/
theorem resetTransactionLeavesAnyState : Obligations.ResetTransactionLeavesAnyState :=
  fun _ => ⟨Session.fresh, rfl, rfl, rfl⟩

/-- Settles O48: INSPECT writes the session's answer alone. -/
theorem inspectReadsAndChangesNothing : Obligations.InspectReadsAndChangesNothing := by
  refine fun se q => ⟨_, rfl, rfl, rfl, ?_, ?_, ?_, ?_, ?_⟩
  · rintro i rfl
    rfl
  · rintro a rfl
    rfl
  · rintro rfl
    rfl
  · rintro rfl
    rfl
  · rintro rfl
    rfl

section
variable {se : Session}

/-- R131: before the first STEP a host write is not refused. -/
theorem whileLoading_of_loading (h : se.phase = .loading) (t : Host.Outcome Session Fault Refusal) :
    se.whileLoading t = t := by
  rw [Session.whileLoading, h]

/-- R137: from the first STEP on it is, by name. -/
theorem whileLoading_of_stepping (h : se.phase = .stepping) (t : Host.Outcome Session Fault Refusal) :
    se.whileLoading t = .refused .hostWriteDuringRun := by
  rw [Session.whileLoading, h]

theorem transact_preload_of_loading (h : se.phase = .loading) (p : Preload) :
    se.transact (.preload p) = .next ⟨se.state.preload p, .loading, none⟩ := whileLoading_of_loading h _

theorem transact_loadStream_of_some (h : se.phase = .loading) {ws : List Word} {t : State}
    (ht : se.state.loadStream ws = some t) : se.transact (.loadStream ws) = .next ⟨t, .loading, none⟩ := by
  rw [Session.transact, whileLoading_of_loading h, ht]

theorem transact_loadStream_of_none (h : se.phase = .loading) {ws : List Word} (ht : se.state.loadStream ws = none) :
    se.transact (.loadStream ws) = .refused .streamTooLong := by
  rw [Session.transact, whileLoading_of_loading h, ht]

theorem transact_preload_of_stepping (h : se.phase = .stepping) (p : Preload) :
    se.transact (.preload p) = .refused .hostWriteDuringRun := whileLoading_of_stepping h _

theorem transact_loadStream_of_stepping (h : se.phase = .stepping) (ws : List Word) :
    se.transact (.loadStream ws) = .refused .hostWriteDuringRun := whileLoading_of_stepping h _

theorem transact_step {t : State} (h : step se.state = .next t) : se.transact .step = .next ⟨t, .stepping, none⟩ := by
  rw [Session.transact, h, Session.afterStep]

/-- R137: during a run only STEP and RESET can change the machine: INSPECT reads, and the host's writes are refused. -/
theorem step_or_reset_of_state_ne (h : se.phase = .stepping) {s' : Session} {tr : Transaction}
    (ht : se.transact tr = .next s') (changed : s'.state ≠ se.state) : tr = .step ∨ tr = .reset := by
  cases tr with
  | reset => exact .inr rfl
  | preload p => exact nomatch (transact_preload_of_stepping h p).symm.trans ht
  | loadStream ws => exact nomatch (transact_loadStream_of_stepping h ws).symm.trans ht
  | step => exact .inl rfl
  | inspect q =>
    obtain rfl := Host.Outcome.next.inj ht
    exact absurd rfl changed

end

/-- Settles O45: each transaction in each phase, by the equations above. -/
theorem hostWritesOnlyBeforeTheFirstStep : Obligations.HostWritesOnlyBeforeTheFirstStep := by
  refine ⟨fun se t h => ?_, fun se p h => ?_, fun se ws h => ⟨fun t ht => ?_, transact_loadStream_of_none h⟩, fun se h => ?_,
    fun se s' tr h => step_or_reset_of_state_ne h⟩
  · exact ⟨_, transact_step h, rfl, rfl⟩
  · exact ⟨_, transact_preload_of_loading h p, rfl, rfl⟩
  · exact ⟨_, transact_loadStream_of_some h ht, rfl, rfl⟩
  · exact ⟨transact_preload_of_stepping h, transact_loadStream_of_stepping h⟩

end Sys2Proof.Machine
end
